-- ==== Sys2Proof/Word.lean ====
section
/-! DEFINITION. The machine's word types (spec/00_scope.md rule R9: bit 0 is the least significant bit, all values unsigned). -/

namespace Sys2Proof

/-- A byte: a general register, a timer, a memory cell (R20, R26, R27, R31). -/
abbrev Byte := BitVec 8

/-- A 16-bit value: an instruction word, PC, I, a return address (R22, R23, R25, R90). -/
abbrev Word := BitVec 16

/-- A nibble of an instruction word (R13, R91). -/
abbrev Nibble := BitVec 4

/-- A register index, the field X or Y of an instruction: always within 0 to 15 (R20, R91). -/
abbrev Reg := BitVec 4

/-- A row of the display buffer: bit 63 is the leftmost pixel (R30). -/
abbrev Row := BitVec 64

/-- A logical key, 0x0 to 0xF (R28, R236). -/
abbrev Key := Fin 16

end Sys2Proof
end

