-- ==== Sys2Proof/Config.lean ====
section
/-! DEFINITION. What an implementation fixes (spec/00_scope.md rules R6, R8) and the two free values.
The parameters STACK_DEPTH and FONT are arguments of the model, a part of its state that nothing
writes; their defaults stand in Machine/Font.lean. -/

namespace Sys2Proof.Config

/-- `MEM_SIZE` (R6): every address is reduced modulo this (R61). -/
abbrev memSize : Nat := 4096

/-- `FONT_BASE` (R6). -/
abbrev fontBase : Nat := 0x050

/-- `FONT_LEN` (R6): 16 glyphs of 5 bytes. -/
abbrev fontLen : Nat := 80

/-- `GLYPH_LEN` (R6). -/
abbrev glyphLen : Nat := 5

/-- `PROG_BASE` (R6): the load address and the reset value of PC. -/
abbrev progBase : Nat := 0x200

/-- `PROG_MAX` (R8): the longest image RESET accepts (R69). -/
abbrev progMax : Nat := memSize - progBase

/-- A font: its 80 bytes, glyph 0 first (R8, R70). -/
abbrev Font : Type := Vector Byte fontLen

/-- The parameters of R8 that have a default: any depth of the stack of at least 1 and any font. -/
structure Params where
  /-- `STACK_DEPTH` (R8, R25, decision D5): how many entries the call stack has. Log 5. -/
  stackDepth : Nat
  /-- `FONT` (R8, R70, decision D13): the 80 font bytes. Log 4. -/
  font : Font
  deriving DecidableEq, Repr

/-- `KEYWAIT_TONE` (R8, R242, decision D10): OPEN in the spec, a free constant.
UNVERIFIED, safe: log 3. -/
opaque keywaitTone : Byte

/-- The random bytes of R173, one for each draw: a free value, under no law.
DESIGN CHOICE of the form, safe: log 2. -/
opaque randIn : Nat → Byte

end Sys2Proof.Config
end

