-- ==== Sys2Proof/Syntax.lean ====
section
/-! DEFINITION. The 34 instructions of spec/30_encoding.md rule R95, one constructor for each row of
spec/opcode_table.json, in the table's order. The fields are those of R91: `x`, `y` register
indexes, `n` a nibble, `nn` a byte, `nnn` a 12-bit address; all unsigned (R93). -/

namespace Sys2Proof

/-- An instruction of R95. -/
inductive Instr where
  /-- 00E0, clear display (R214). -/
  | cls
  /-- 00EE, pop stack into PC (R140). -/
  | ret
  /-- 1NNN, PC = NNN (R141). -/
  | jp (nnn : BitVec 12)
  /-- 2NNN, push PC, PC = NNN (R142). -/
  | call (nnn : BitVec 12)
  /-- 3XNN, skip if VX = NN (R145). -/
  | seImm (x : Reg) (nn : Byte)
  /-- 4XNN, skip if VX ≠ NN (R146). -/
  | sneImm (x : Reg) (nn : Byte)
  /-- 5XY0, skip if VX = VY (R147). -/
  | seReg (x y : Reg)
  /-- 6XNN, VX = NN (R162). -/
  | ldImm (x : Reg) (nn : Byte)
  /-- 7XNN, VX = VX + NN, no flag (R163). -/
  | addImm (x : Reg) (nn : Byte)
  /-- 8XY0, VX = VY (R164). -/
  | ldReg (x y : Reg)
  /-- 8XY1, VX = VX OR VY, VF = 0 (R165). -/
  | orReg (x y : Reg)
  /-- 8XY2, VX = VX AND VY, VF = 0 (R166). -/
  | andReg (x y : Reg)
  /-- 8XY3, VX = VX XOR VY, VF = 0 (R167). -/
  | xorReg (x y : Reg)
  /-- 8XY4, VX = VX + VY, VF = carry (R168). -/
  | addReg (x y : Reg)
  /-- 8XY5, VX = VX − VY, VF = no borrow (R169). -/
  | subReg (x y : Reg)
  /-- 8XY6, VX = VY >> 1, VF = VY bit 0 (R170). -/
  | shrReg (x y : Reg)
  /-- 8XY7, VX = VY − VX, VF = no borrow (R171). -/
  | subnReg (x y : Reg)
  /-- 8XYE, VX = VY << 1, VF = VY bit 7 (R172). -/
  | shlReg (x y : Reg)
  /-- 9XY0, skip if VX ≠ VY (R148). -/
  | sneReg (x y : Reg)
  /-- ANNN, I = NNN (R191). -/
  | ldI (nnn : BitVec 12)
  /-- BNNN, PC = NNN + VX; X is the top nibble of NNN (R143). -/
  | jpx (nnn : BitVec 12)
  /-- CXNN, VX = random AND NN (R174). -/
  | rnd (x : Reg) (nn : Byte)
  /-- DXYN, draw N sprite rows, VF = collision (R215). -/
  | drw (x y : Reg) (n : Nibble)
  /-- EX9E, skip if key VX mod 16 is down (R237). -/
  | skp (x : Reg)
  /-- EXA1, skip if key VX mod 16 is up (R238). -/
  | sknp (x : Reg)
  /-- FX07, VX = delay timer (R232). -/
  | ldVxDt (x : Reg)
  /-- FX0A, blocking key read (R241). -/
  | ldVxK (x : Reg)
  /-- FX15, delay timer = VX (R233). -/
  | ldDtVx (x : Reg)
  /-- FX18, sound timer = VX (R234). -/
  | ldStVx (x : Reg)
  /-- FX1E, I = I + VX, no flag (R192). -/
  | addI (x : Reg)
  /-- FX29, I = address of the glyph of VX's low nibble (R194). -/
  | ldF (x : Reg)
  /-- FX33, BCD of VX at I, I + 1, I + 2 (R195). -/
  | ldB (x : Reg)
  /-- FX55, store V0..VX at I, I advances (R196). -/
  | storeRegs (x : Reg)
  /-- FX65, load V0..VX from I, I advances (R197). -/
  | loadRegs (x : Reg)
  deriving DecidableEq, Repr

end Sys2Proof
end

