-- ==== Sys2Proof/WellFormed.lean ====
section
/-! DEFINITION. Which instructions, parameters and program images are well formed. An instruction's fields carry
their widths in their types, so every term of `Instr` meets its check (spec/10_state.md rule R20:
"always within 0–15 by construction"); an image is well formed when it fits (spec/20_memory.md R69). -/

namespace Sys2Proof

/-- Every field of the instruction lies in the range its width gives it (R91). -/
def Instr.wellFormed : Instr → Bool
  | .cls | .ret => true
  | .jp nnn | .call nnn | .ldI nnn | .jpx nnn => decide (nnn.toNat < 4096)
  | .seImm x nn | .sneImm x nn | .ldImm x nn | .addImm x nn | .rnd x nn =>
      decide (x.toNat < 16) && decide (nn.toNat < 256)
  | .seReg x y | .sneReg x y | .ldReg x y | .orReg x y | .andReg x y | .xorReg x y
  | .addReg x y | .subReg x y | .shrReg x y | .subnReg x y | .shlReg x y =>
      decide (x.toNat < 16) && decide (y.toNat < 16)
  | .drw x y n => decide (x.toNat < 16) && decide (y.toNat < 16) && decide (n.toNat < 16)
  | .skp x | .sknp x | .ldVxDt x | .ldVxK x | .ldDtVx x | .ldStVx x | .addI x | .ldF x
  | .ldB x | .storeRegs x | .loadRegs x => decide (x.toNat < 16)

/-- RESET accepts an image of at most `PROG_MAX` bytes and no other (R69, decision D14). -/
def imageWellFormed (image : List Byte) : Bool := decide (image.length ≤ Config.progMax)

/-- `STACK_DEPTH` is at least 1; FONT has its 80 bytes by its type (R8). -/
def Config.Params.wellFormed (p : Config.Params) : Bool := decide (1 ≤ p.stackDepth)

end Sys2Proof
end

