-- ==== Sys2Proof/Decode.lean ====
section
/-! DEFINITION. Decoding and encoding (spec/30_encoding.md rules R90 to R97). Fields are cut from the
word once, here (R91); a word outside the opcode map is rejected by the name of its family (R96). -/

namespace Sys2Proof

/-- What a decoder reads. An unknown opcode is no error: its cycle is a no-op (R96, R124). -/
inductive Decoded where
  /-- A word of the opcode map R95. -/
  | instr (i : Instr)
  /-- A word that matches no row of R95, with its family, the top nibble (R96). -/
  | unknown (family : Nibble)
  deriving DecidableEq, Repr

/-- `T` = op[15:12] (R91). -/
def opT (op : Word) : Nibble := op.extractLsb' 12 4
/-- `X` = op[11:8] (R91). -/
def opX (op : Word) : Reg := op.extractLsb' 8 4
/-- `Y` = op[7:4] (R91). -/
def opY (op : Word) : Reg := op.extractLsb' 4 4
/-- `N` = op[3:0] (R91). -/
def opN (op : Word) : Nibble := op.extractLsb' 0 4
/-- `NN` = op[7:0] (R91). -/
def opNN (op : Word) : Byte := op.extractLsb' 0 8
/-- `NNN` = op[11:0] (R91). -/
def opNNN (op : Word) : BitVec 12 := op.extractLsb' 0 12

/-- Family 0 is decoded by the whole word (R94). -/
def decodeFamily0 (op : Word) : Decoded :=
  if op = 0x00E0#16 then .instr .cls
  else if op = 0x00EE#16 then .instr .ret
  else .unknown 0x0#4

/-- Family 8 is decoded by `N` (R94). -/
def decodeFamily8 (x y : Reg) (n : Nibble) : Decoded :=
  match n.toNat with
  | 0x0 => .instr (.ldReg x y)
  | 0x1 => .instr (.orReg x y)
  | 0x2 => .instr (.andReg x y)
  | 0x3 => .instr (.xorReg x y)
  | 0x4 => .instr (.addReg x y)
  | 0x5 => .instr (.subReg x y)
  | 0x6 => .instr (.shrReg x y)
  | 0x7 => .instr (.subnReg x y)
  | 0xE => .instr (.shlReg x y)
  | _ => .unknown 0x8#4

/-- Family E is decoded by `NN` (R94). -/
def decodeFamilyE (x : Reg) (nn : Byte) : Decoded :=
  match nn.toNat with
  | 0x9E => .instr (.skp x)
  | 0xA1 => .instr (.sknp x)
  | _ => .unknown 0xE#4

/-- Family F is decoded by `NN` (R94). -/
def decodeFamilyF (x : Reg) (nn : Byte) : Decoded :=
  match nn.toNat with
  | 0x07 => .instr (.ldVxDt x)
  | 0x0A => .instr (.ldVxK x)
  | 0x15 => .instr (.ldDtVx x)
  | 0x18 => .instr (.ldStVx x)
  | 0x1E => .instr (.addI x)
  | 0x29 => .instr (.ldF x)
  | 0x33 => .instr (.ldB x)
  | 0x55 => .instr (.storeRegs x)
  | 0x65 => .instr (.loadRegs x)
  | _ => .unknown 0xF#4

/-- Families 5 and 9: `N` must be 0 (R94, R96, decision D17). -/
def decodeIfZero (n family : Nibble) (i : Instr) : Decoded :=
  if n = 0x0#4 then .instr i else .unknown family

/-- The decode procedure R94: by the top nibble, then by the family's own nibble or byte. A nibble
is at most 15, so the last arm is family F. -/
def decodeOp (op : Word) : Decoded :=
  match (opT op).toNat with
  | 0x0 => decodeFamily0 op
  | 0x1 => .instr (.jp (opNNN op))
  | 0x2 => .instr (.call (opNNN op))
  | 0x3 => .instr (.seImm (opX op) (opNN op))
  | 0x4 => .instr (.sneImm (opX op) (opNN op))
  | 0x5 => decodeIfZero (opN op) 0x5#4 (.seReg (opX op) (opY op))
  | 0x6 => .instr (.ldImm (opX op) (opNN op))
  | 0x7 => .instr (.addImm (opX op) (opNN op))
  | 0x8 => decodeFamily8 (opX op) (opY op) (opN op)
  | 0x9 => decodeIfZero (opN op) 0x9#4 (.sneReg (opX op) (opY op))
  | 0xA => .instr (.ldI (opNNN op))
  | 0xB => .instr (.jpx (opNNN op))
  | 0xC => .instr (.rnd (opX op) (opNN op))
  | 0xD => .instr (.drw (opX op) (opY op) (opN op))
  | 0xE => decodeFamilyE (opX op) (opNN op)
  | _ => decodeFamilyF (opX op) (opNN op)

/-- Decoding of bytes as memory holds them: big-endian, two bytes a word (R63, R90); none where fewer
than two are given, which a fetch from memory never gives. -/
def decodeBytes : List Byte → Option Decoded
  | hi :: lo :: _ => some (decodeOp (hi ++ lo))
  | [_] => none
  | [] => none

/-- The two bytes of a word in memory order: the byte at the lower address is op[15:8] (R63). -/
def wordBytes (op : Word) : List Byte := [op.extractLsb' 8 8, op.extractLsb' 0 8]

/-- The instruction the decoder reads from a row's word, bits numbered as spec/opcode_table.json
numbers them; the bits from `nbits` up are 0 (log 12). -/
def decodeTableWord (nbits w : Nat) : Option Instr :=
  match decodeBytes (wordBytes (BitVec.ofNat 16 (w % 2 ^ nbits))) with
  | some (.instr i) => some i
  | some (.unknown _) => none
  | none => none

/-- The word of an instruction: its pattern in R95 with the fields filled in (R92). -/
def encode : Instr → Word
  | .cls => 0x00E0#16
  | .ret => 0x00EE#16
  | .jp nnn => 0x1#4 ++ nnn
  | .call nnn => 0x2#4 ++ nnn
  | .seImm x nn => 0x3#4 ++ x ++ nn
  | .sneImm x nn => 0x4#4 ++ x ++ nn
  | .seReg x y => 0x5#4 ++ x ++ y ++ 0x0#4
  | .ldImm x nn => 0x6#4 ++ x ++ nn
  | .addImm x nn => 0x7#4 ++ x ++ nn
  | .ldReg x y => 0x8#4 ++ x ++ y ++ 0x0#4
  | .orReg x y => 0x8#4 ++ x ++ y ++ 0x1#4
  | .andReg x y => 0x8#4 ++ x ++ y ++ 0x2#4
  | .xorReg x y => 0x8#4 ++ x ++ y ++ 0x3#4
  | .addReg x y => 0x8#4 ++ x ++ y ++ 0x4#4
  | .subReg x y => 0x8#4 ++ x ++ y ++ 0x5#4
  | .shrReg x y => 0x8#4 ++ x ++ y ++ 0x6#4
  | .subnReg x y => 0x8#4 ++ x ++ y ++ 0x7#4
  | .shlReg x y => 0x8#4 ++ x ++ y ++ 0xE#4
  | .sneReg x y => 0x9#4 ++ x ++ y ++ 0x0#4
  | .ldI nnn => 0xA#4 ++ nnn
  | .jpx nnn => 0xB#4 ++ nnn
  | .rnd x nn => 0xC#4 ++ x ++ nn
  | .drw x y n => 0xD#4 ++ x ++ y ++ n
  | .skp x => 0xE#4 ++ x ++ 0x9E#8
  | .sknp x => 0xE#4 ++ x ++ 0xA1#8
  | .ldVxDt x => 0xF#4 ++ x ++ 0x07#8
  | .ldVxK x => 0xF#4 ++ x ++ 0x0A#8
  | .ldDtVx x => 0xF#4 ++ x ++ 0x15#8
  | .ldStVx x => 0xF#4 ++ x ++ 0x18#8
  | .addI x => 0xF#4 ++ x ++ 0x1E#8
  | .ldF x => 0xF#4 ++ x ++ 0x29#8
  | .ldB x => 0xF#4 ++ x ++ 0x33#8
  | .storeRegs x => 0xF#4 ++ x ++ 0x55#8
  | .loadRegs x => 0xF#4 ++ x ++ 0x65#8

/-- A row of the opcode map R95: a word belongs to it when its bits under `mask` are `pat`. -/
structure OpcodeRow where
  mnemonic : String
  mask : Word
  pat : Word
  deriving DecidableEq, Repr

/-- The row of R95 an instruction belongs to, with the table's mask and match. -/
def opcodeRow : Instr → OpcodeRow
  | .cls => ⟨"CLS", 0xFFFF#16, 0x00E0#16⟩
  | .ret => ⟨"RET", 0xFFFF#16, 0x00EE#16⟩
  | .jp _ => ⟨"JP_nnn", 0xF000#16, 0x1000#16⟩
  | .call _ => ⟨"CALL_nnn", 0xF000#16, 0x2000#16⟩
  | .seImm _ _ => ⟨"SE_Vx__nn", 0xF000#16, 0x3000#16⟩
  | .sneImm _ _ => ⟨"SNE_Vx__nn", 0xF000#16, 0x4000#16⟩
  | .seReg _ _ => ⟨"SE_Vx__Vy", 0xF00F#16, 0x5000#16⟩
  | .ldImm _ _ => ⟨"LD_Vx__nn", 0xF000#16, 0x6000#16⟩
  | .addImm _ _ => ⟨"ADD_Vx__nn", 0xF000#16, 0x7000#16⟩
  | .ldReg _ _ => ⟨"LD_Vx__Vy", 0xF00F#16, 0x8000#16⟩
  | .orReg _ _ => ⟨"OR_Vx__Vy", 0xF00F#16, 0x8001#16⟩
  | .andReg _ _ => ⟨"AND_Vx__Vy", 0xF00F#16, 0x8002#16⟩
  | .xorReg _ _ => ⟨"XOR_Vx__Vy", 0xF00F#16, 0x8003#16⟩
  | .addReg _ _ => ⟨"ADD_Vx__Vy", 0xF00F#16, 0x8004#16⟩
  | .subReg _ _ => ⟨"SUB_Vx__Vy", 0xF00F#16, 0x8005#16⟩
  | .shrReg _ _ => ⟨"SHR_Vx__Vy", 0xF00F#16, 0x8006#16⟩
  | .subnReg _ _ => ⟨"SUBN_Vx__Vy", 0xF00F#16, 0x8007#16⟩
  | .shlReg _ _ => ⟨"SHL_Vx__Vy", 0xF00F#16, 0x800E#16⟩
  | .sneReg _ _ => ⟨"SNE_Vx__Vy", 0xF00F#16, 0x9000#16⟩
  | .ldI _ => ⟨"LD_I__nnn", 0xF000#16, 0xA000#16⟩
  | .jpx _ => ⟨"JPX_nnn", 0xF000#16, 0xB000#16⟩
  | .rnd _ _ => ⟨"RND_Vx__nn", 0xF000#16, 0xC000#16⟩
  | .drw _ _ _ => ⟨"DRW_Vx__Vy__n", 0xF000#16, 0xD000#16⟩
  | .skp _ => ⟨"SKP_Vx", 0xF0FF#16, 0xE09E#16⟩
  | .sknp _ => ⟨"SKNP_Vx", 0xF0FF#16, 0xE0A1#16⟩
  | .ldVxDt _ => ⟨"LD_Vx__DT", 0xF0FF#16, 0xF007#16⟩
  | .ldVxK _ => ⟨"LD_Vx__K", 0xF0FF#16, 0xF00A#16⟩
  | .ldDtVx _ => ⟨"LD_DT__Vx", 0xF0FF#16, 0xF015#16⟩
  | .ldStVx _ => ⟨"LD_ST__Vx", 0xF0FF#16, 0xF018#16⟩
  | .addI _ => ⟨"ADD_I__Vx", 0xF0FF#16, 0xF01E#16⟩
  | .ldF _ => ⟨"LD_F__Vx", 0xF0FF#16, 0xF029#16⟩
  | .ldB _ => ⟨"LD_B__Vx", 0xF0FF#16, 0xF033#16⟩
  | .storeRegs _ => ⟨"LD__I___Vx", 0xF0FF#16, 0xF055#16⟩
  | .loadRegs _ => ⟨"LD_Vx___I", 0xF0FF#16, 0xF065#16⟩

/-- One instruction of each row of the opcode map, in the table's order. -/
def opcodeSamples : List Instr :=
  [.cls, .ret, .jp 0, .call 0, .seImm 0 0, .sneImm 0 0, .seReg 0 0, .ldImm 0 0, .addImm 0 0] ++
  [.ldReg 0 0, .orReg 0 0, .andReg 0 0, .xorReg 0 0, .addReg 0 0, .subReg 0 0, .shrReg 0 0] ++
  [.subnReg 0 0, .shlReg 0 0, .sneReg 0 0, .ldI 0, .jpx 0, .rnd 0 0, .drw 0 0 0, .skp 0] ++
  [.sknp 0, .ldVxDt 0, .ldVxK 0, .ldDtVx 0, .ldStVx 0, .addI 0, .ldF 0, .ldB 0, .storeRegs 0] ++
  [.loadRegs 0]

/-- The opcode map R95: its 34 rows. -/
def opcodeMap : List OpcodeRow := opcodeSamples.map opcodeRow

end Sys2Proof
end

