-- ==== Sys2Proof/Machine/Font.lean ====
section
/-! DEFINITION. The defaults of the parameters (spec/00_scope.md R8) and what memory holds after reset
with an empty image, for any font (spec/20_memory.md R66, R71). The default bytes are the spec's
table, which it takes from general knowledge (K1): PRESUMED, log 4. -/

namespace Sys2Proof.Machine

/-- The 80 default font bytes, glyphs 0 to F, five bytes each, the top row of a glyph first (R70). -/
def fontTable : List Byte :=
  [0xF0, 0x90, 0x90, 0x90, 0xF0] ++ [0x20, 0x60, 0x20, 0x20, 0x70] ++
  [0xF0, 0x10, 0xF0, 0x80, 0xF0] ++ [0xF0, 0x10, 0xF0, 0x10, 0xF0] ++
  [0x90, 0x90, 0xF0, 0x10, 0x10] ++ [0xF0, 0x80, 0xF0, 0x10, 0xF0] ++
  [0xF0, 0x80, 0xF0, 0x90, 0xF0] ++ [0xF0, 0x10, 0x20, 0x40, 0x40] ++
  [0xF0, 0x90, 0xF0, 0x90, 0xF0] ++ [0xF0, 0x90, 0xF0, 0x10, 0xF0] ++
  [0xF0, 0x90, 0xF0, 0x90, 0x90] ++ [0xE0, 0x90, 0xE0, 0x90, 0xE0] ++
  [0xF0, 0x80, 0x80, 0x80, 0xF0] ++ [0xE0, 0x90, 0x90, 0x90, 0xE0] ++
  [0xF0, 0x80, 0xF0, 0x80, 0xF0] ++ [0xF0, 0x80, 0xF0, 0x80, 0x80]

/-- The defaults of the parameters: a stack of 16 entries (R25, log 5) and the table above (R70). -/
def defaultParams : Config.Params where
  stackDepth := 16
  font := ⟨fontTable.toArray, rfl⟩

/-- FONT[k] (R8); a font has `FONT_LEN` bytes. -/
def fontByte (font : Config.Font) (k : Nat) : Byte :=
  if h : k < Config.fontLen then font[k] else 0#8

/-- The byte at address `k` right after reset with an empty image: FONT at 0x050 to 0x09F, zero
elsewhere (R66, R71). This is what an address that `Memory` does not list reads as: log 10. -/
def resetByte (font : Config.Font) (k : Nat) : Byte :=
  if Config.fontBase ≤ k ∧ k < Config.fontBase + Config.fontLen then
    fontByte font (k - Config.fontBase)
  else 0#8

end Sys2Proof.Machine
end

