-- ==== Sys2Proof/Machine/State.lean ====
section
/-! DEFINITION. The machine's state as plain data (spec/10_state.md rules R20 to R33), the reasons a
step can stop, and the state after reset (R36, R290). -/

namespace Sys2Proof.Machine

/-- The codes of the fault latch FAULT (R32, R260). They are state, not a stop of the model: the
entry of a fault is a next state in which the latch holds the code (R262). -/
inductive FaultCode where
  /-- 00EE with an empty stack (R261); code 1. -/
  | stackUnderflow
  /-- 2NNN with a full stack (R263); code 2. -/
  | stackOverflow
  deriving DecidableEq, Repr

/-- The reasons a step can stop with a fault: NONE. Both fatal faults of this hardware are the latch
FAULT of the state, and a halted core's step is "does nothing" (R127, R262): log 9. Safe. -/
inductive Fault where
  deriving DecidableEq, Repr

/-- The reasons a step is refused. -/
inductive Refusal where
  /-- An instruction without a meaning; no arm of `exec` raises it. Safe. -/
  | notModelled (mnemonic : String)
  /-- The host's next command is RESET with an image longer than `PROG_MAX` bytes: "not a legal
  command and the model gives it no meaning" (R69, D14). Raised by the step that would run that
  command, never by an instruction. Safe: log 11. -/
  | oversizedImage
  deriving DecidableEq, Repr

/-- The commands of the host (R40). -/
inductive Command where
  /-- RESET(image): a fresh machine with the image at 0x200 (R290). -/
  | reset (image : List Byte)
  /-- SETKEYS(k): bit k of the snapshot is key k (R41). -/
  | setKeys (snapshot : BitVec 16)
  /-- STEP: one cycle (R120). -/
  | step
  /-- BATCH(n): n cycles, then one timer tick (R126). -/
  | batch (n : Nat)
  deriving DecidableEq, Repr

/-- MEM (R31, R60): the bytes that differ from what reset leaves, as (address, byte) pairs in rising
order of address. What an address not listed reads as is `resetByte` (Machine/Font.lean). -/
abbrev Memory := List Host.Cell

/-- The state of the machine. -/
structure State where
  /-- V[0] to V[15]; V[15] is VF (R20, R21). -/
  v : Vector Byte 16
  /-- The index register I (R22). -/
  i : Word
  /-- The program counter PC (R23). -/
  pc : Word
  /-- STACK[0 .. STACK_DEPTH − 1], return addresses (R25). -/
  stack : List Word
  /-- SP, the count of stack entries in use, 0 to STACK_DEPTH (R25). -/
  sp : Nat
  /-- DT, the delay timer (R26). -/
  dt : Byte
  /-- ST, the sound timer (R27). -/
  st : Byte
  /-- KEYS, the input latch: bit k is 1 when key k is down (R28). -/
  keys : BitVec 16
  /-- WAIT_KEY, the key FX0A has latched and waits to see released (R29). -/
  waitKey : Option Key
  /-- FB, the display buffer, row 0 first (R30). -/
  fb : Vector Row 32
  /-- MEM, the memory (R31). -/
  mem : Memory
  /-- FAULT, the fault latch (R32). -/
  fault : Option FaultCode
  /-- The model's own: how many random bytes have been drawn (the input rand_in of R173). Log 2. -/
  draws : Nat
  /-- The model's own: cycles left of the BATCH in progress (R126), or none. Log 7. -/
  batch : Option Nat
  /-- The model's own: the commands the host has still to issue, first one first (R40). With none
  listed the host issues STEP. Log 7. -/
  pending : List Command
  /-- The parameters STACK_DEPTH and FONT (R8), which nothing writes: the named arguments of the model.
  Logs 4 and 5. -/
  params : Config.Params
  deriving DecidableEq, Repr

/-- The machine with parameters `p` right after RESET with an empty image (R36, R290, R291). The stack
entries hold no defined value: DESIGN CHOICE 0, unsafe, log 6. The fields `draws`, `batch` and
`pending` are the model's own. -/
def State.resetFor (p : Config.Params) : State where
  v := Vector.replicate 16 0#8
  i := 0#16
  pc := 0x0200#16
  stack := List.replicate p.stackDepth 0#16
  sp := 0
  dt := 0#8
  st := 0#8
  keys := 0#16
  waitKey := none
  fb := Vector.replicate 32 0#64
  mem := []
  fault := none
  draws := 0
  batch := none
  pending := []
  params := p

/-- The machine with the default parameters right after RESET with an empty image. -/
def State.reset : State := State.resetFor defaultParams

end Sys2Proof.Machine
end

