-- ==== Sys2Proof/Machine/Ops.lean ====
section
/-! DEFINITION. The named operations over memory, registers, PC and stack; the entry of a fault and
the one exit from it, RESET (spec/10_state.md, spec/20_memory.md, spec/60_exceptions.md R262). -/

namespace Sys2Proof.Machine

/-- What a meaning or a step answers. -/
abbrev Result := Host.Outcome State Fault Refusal

/-! ## The memory bus -/

/-- The address the bus uses: every address is taken modulo 4096 (R61). -/
def busAddr (a : Word) : Nat := a.toNat % Config.memSize

/-- The byte a memory holds at bus address `k`. -/
def memLookup (font : Config.Font) : Memory → Nat → Byte
  | [], k => resetByte font k
  | (k', b) :: rest, k => if k = k' then b else memLookup font rest k

/-- `b` listed at bus address `k`, in its place in the rising order. -/
def memInsert : Memory → Nat → Byte → Memory
  | [], k, b => [(k, b)]
  | (k', b') :: rest, k, b =>
    if k < k' then (k, b) :: (k', b') :: rest
    else if k = k' then (k, b) :: rest
    else (k', b') :: memInsert rest k b

/-- The memory with `b` at bus address `k`, in the canonical form: a byte equal to what reset leaves
is not listed. -/
def memStore (font : Config.Font) (m : Memory) (k : Nat) (b : Byte) : Memory :=
  if b = resetByte font k then m.filter (fun c => c.1 != k) else memInsert m k b

/-- The canonical form from address `lo` up: addresses in the space and strictly rising, no byte
equal to what an unlisted address reads as. -/
def memWfFrom (font : Config.Font) : Nat → Memory → Bool
  | _, [] => true
  | lo, (k, b) :: rest =>
    decide (lo ≤ k) && decide (k < Config.memSize) && decide (b ≠ resetByte font k) &&
      memWfFrom font (k + 1) rest

/-- The canonical form of memory: log 10. -/
def Memory.wf (font : Config.Font) (m : Memory) : Bool := memWfFrom font 0 m

/-- `MemRead(a, 1)` (R62). It cannot fault. -/
def State.memRead (s : State) (a : Word) : Byte := memLookup s.params.font s.mem (busAddr a)

/-- `MemWrite(a, 1, b)` (R62). It cannot fault. -/
def State.memWrite (s : State) (a : Word) (b : Byte) : State :=
  { s with mem := memStore s.params.font s.mem (busAddr a) b }

/-! ## Registers -/

/-- VF, the flag register V[15] (R21). -/
def vf : Reg := 0xF#4

/-- `V[x]` (R10, R20). -/
def State.reg (s : State) (x : Reg) : Byte := s.v[x.toNat]'x.isLt

/-- `V[x] <- b` (R10, R20). -/
def State.setReg (s : State) (x : Reg) (b : Byte) : State :=
  { s with v := s.v.set x.toNat b x.isLt }

/-- The result to `V[x]`, then the flag to VF: when `x` is 15 the flag is what stays (R161, R21). -/
def State.setRegFlag (s : State) (x : Reg) (result flag : Byte) : State :=
  (s.setReg x result).setReg vf flag

/-- `I <- a` (R22). -/
def State.setI (s : State) (a : Word) : State := { s with i := a }

/-! ## Timers, latches, display and the model's own fields -/

/-- `DT <- b` (R26). -/
def State.setDt (s : State) (b : Byte) : State := { s with dt := b }

/-- `ST <- b` (R27). -/
def State.setSt (s : State) (b : Byte) : State := { s with st := b }

/-- `KEYS <- k`, all sixteen bits at once (R28, R41). -/
def State.setKeys (s : State) (k : BitVec 16) : State := { s with keys := k }

/-- `WAIT_KEY <- w` (R29). -/
def State.setWaitKey (s : State) (w : Option Key) : State := { s with waitKey := w }

/-- `FB <- fb`, all rows (R30). -/
def State.setFb (s : State) (fb : Vector Row 32) : State := { s with fb := fb }

/-- `FAULT <- c` (R32). -/
def State.setFault (s : State) (c : Option FaultCode) : State := { s with fault := c }

/-- The model's count of draws (log 2). -/
def State.setDraws (s : State) (n : Nat) : State := { s with draws := n }

/-- The model's batch in progress (log 7). -/
def State.setBatch (s : State) (b : Option Nat) : State := { s with batch := b }

/-- The model's list of the host's commands (log 7). -/
def State.setPending (s : State) (l : List Command) : State := { s with pending := l }

/-! ## The program counter -/

/-- `PC <- a` (R23). -/
def State.setPc (s : State) (a : Word) : State := { s with pc := a }

/-- The advance of fetch, modulo 2^16 (R122). -/
def State.advance (s : State) : State := s.setPc (s.pc + 2#16)

/-- To skip is to add 2 more (R144). -/
def State.skipIf (s : State) (c : Bool) : State := if c then s.setPc (s.pc + 2#16) else s

/-- PC back to the instruction's own address (R241). -/
def State.rewind (s : State) : State := s.setPc (s.pc - 2#16)

/-! ## The call stack -/

/-- `STACK[k]` (R25). The 0 past the end of the array is read in no state a run reaches. -/
def State.entry (s : State) (k : Nat) : Word := s.stack.getD k 0#16

/-- The stack entries and SP (R25). -/
def State.setStack (s : State) (entries : List Word) (sp : Nat) : State :=
  { s with stack := entries, sp := sp }

/-- The stack with `a` pushed, or none when it is full (R142). -/
def State.push (s : State) (a : Word) : Option State :=
  if s.sp = s.params.stackDepth then none
  else some (s.setStack (s.stack.set s.sp a) (s.sp + 1))

/-- The top of the stack and the stack without it, or none when it is empty; the freed entry is not
cleared (R140). -/
def State.pop (s : State) : Option (Word × State) :=
  if s.sp = 0 then none
  else some (s.entry (s.sp - 1), s.setStack s.stack (s.sp - 1))

/-! ## Faults and reset -/

/-- Fault entry: `FAULT <- c` and nothing else; PC keeps the advanced value (R262). -/
def State.raiseFault (s : State) (c : FaultCode) : State := s.setFault (some c)

/-- The core is halted once FAULT is not none (R32, R264). -/
def State.halted (s : State) : Bool := s.fault.isSome

/-- The bytes of `bytes` at bus addresses `k`, `k + 1`, … -/
def storeBytes (font : Config.Font) : Memory → Nat → List Byte → Memory
  | m, _, [] => m
  | m, k, b :: rest => storeBytes font (memStore font m k b) (k + 1) rest

/-- RESET(image) of the machine with parameters `p`, for an image that fits: the fresh machine with
the image from 0x200 (R290, R69). It is the only exit from a fault; there is no return from one
(R264). -/
def resetWith (p : Config.Params) (image : List Byte) : State :=
  { State.resetFor p with mem := storeBytes p.font [] Config.progBase image }

/-! ## Fetch -/

/-- The word at PC, big-endian, each of its two addresses reduced on its own (R63, R121). -/
def State.fetchWord (s : State) : Word := s.memRead s.pc ++ s.memRead (s.pc + 1#16)

/-- Bytes placed from address `a` up, each address reduced on its own. -/
def State.placeBytes : State → Word → List Byte → State
  | s, _, [] => s
  | s, a, b :: rest => (s.memWrite a b).placeBytes (a + 1#16) rest

/-- A word placed where the next cycle fetches, the core not halted and the host about to issue STEP. -/
def State.placeWord (s : State) (op : Word) : State :=
  (((s.placeBytes s.pc (wordBytes op)).setFault none).setBatch none).setPending []

end Sys2Proof.Machine
end

