-- ==== Sys2Proof/Machine/Flags.lean ====
section
/-! DEFINITION. Every flag computation of the spec; the flag is the value 0 or 1 of VF (R21, R160). -/

namespace Sys2Proof.Machine

/-- A flag as the byte VF receives. -/
def flagByte (c : Bool) : Byte := if c then 1#8 else 0#8

/-- Carry: the ninth bit of the sum (R160, R168). -/
def carryFlag (p q : Byte) : Byte := flagByte (decide (255 < p.toNat + q.toNat))

/-- No borrow: the minuend is at least the subtrahend; equality gives 1 (R160, R169, R171). -/
def noBorrowFlag (minuend subtrahend : Byte) : Byte :=
  flagByte (decide (subtrahend.toNat ≤ minuend.toNat))

/-- The bit a right shift sends out (R170). -/
def lowBitFlag (t : Byte) : Byte := flagByte (t.getLsbD 0)

/-- The bit a left shift sends out (R172). -/
def highBitFlag (t : Byte) : Byte := flagByte (t.getLsbD 7)

/-- The flag of the logic instructions, always 0 (R165 to R167). -/
def logicFlag : Byte := flagByte false

end Sys2Proof.Machine
end

