-- ==== Sys2Proof/Machine/Operands.lean ====
section
/-! DEFINITION. Every operand form of the spec: immediates (R93), the indexed jump target (R143),
register-indirect addresses through I (R193), register ranges (R20), the key index (R237), the glyph
address (R194), sprite coordinates (R215) and decimal digits (R195). -/

namespace Sys2Proof.Machine

/-- `zext_16(NNN)` (R93). -/
def addrImm (nnn : BitVec 12) : Word := nnn.setWidth 16

/-- `zext_16(V[X])` (R143, R192). -/
def regWide (s : State) (x : Reg) : Word := (s.reg x).setWidth 16

/-- The register a BNNN names: the top nibble of its own address (R143). -/
def jpxReg (nnn : BitVec 12) : Reg := nnn.extractLsb' 8 4

/-- The target of BNNN: NNN + VX modulo 2^16 (R143). -/
def jpxTarget (s : State) (nnn : BitVec 12) : Word := addrImm nnn + regWide s (jpxReg nnn)

/-- The address of byte `k` of a transfer through I (R193); the bus reduces it. -/
def indirect (s : State) (k : Nat) : Word := s.i + BitVec.ofNat 16 k

/-- The registers V[0] to V[X], ascending (R196, R197). -/
def regsUpTo (x : Reg) : List Reg := (List.range (x.toNat + 1)).map (BitVec.ofNat 4)

/-- The key V[X] mod 16 (R237, R238). -/
def keyOperand (s : State) (x : Reg) : Key := ⟨(s.reg x).toNat % 16, Nat.mod_lt _ (by decide)⟩

/-- `0x0050 + (V[X] & 0x0F) × 5` (R194). -/
def glyphAddr (s : State) (x : Reg) : Word :=
  BitVec.ofNat 16 (Config.fontBase + ((s.reg x).toNat % 16) * Config.glyphLen)

/-- The start column, V[X] mod 64 (R215). -/
def startColumn (s : State) (x : Reg) : BitVec 6 := (s.reg x).setWidth 6

/-- The start row, V[Y] mod 32 (R215). -/
def startRow (s : State) (y : Reg) : Nat := (s.reg y).toNat % 32

/-- Hundreds, tens and units of a byte (R195). -/
def bcdDigits (b : Byte) : List Byte := [b / 100#8, b / 10#8 % 10#8, b % 10#8]

end Sys2Proof.Machine
end

