-- ==== Sys2Proof/Machine/Alu.lean ====
section
/-! DEFINITION. Meanings of the arithmetic and logic family (spec/42_alu.md R160 to R174). Sources
are read first, the result is written to V[X], the flag to VF last (R161). -/

namespace Sys2Proof.Machine

/-- 6XNN (R162). -/
def execLdImm (x : Reg) (nn : Byte) (s : State) : Result := .next (s.setReg x nn)

/-- 7XNN, modulo 256, no flag (R163). -/
def execAddImm (x : Reg) (nn : Byte) (s : State) : Result := .next (s.setReg x (s.reg x + nn))

/-- 8XY0 (R164). -/
def execLdReg (x y : Reg) (s : State) : Result := .next (s.setReg x (s.reg y))

/-- 8XY1 (R165). -/
def execOrReg (x y : Reg) (s : State) : Result :=
  .next (s.setRegFlag x (s.reg x ||| s.reg y) logicFlag)

/-- 8XY2 (R166). -/
def execAndReg (x y : Reg) (s : State) : Result :=
  .next (s.setRegFlag x (s.reg x &&& s.reg y) logicFlag)

/-- 8XY3 (R167). -/
def execXorReg (x y : Reg) (s : State) : Result :=
  .next (s.setRegFlag x (s.reg x ^^^ s.reg y) logicFlag)

/-- 8XY4 (R168). -/
def execAddReg (x y : Reg) (s : State) : Result :=
  .next (s.setRegFlag x (s.reg x + s.reg y) (carryFlag (s.reg x) (s.reg y)))

/-- 8XY5 (R169). -/
def execSubReg (x y : Reg) (s : State) : Result :=
  .next (s.setRegFlag x (s.reg x - s.reg y) (noBorrowFlag (s.reg x) (s.reg y)))

/-- 8XY6: the shifted value is VY (R170). -/
def execShrReg (x y : Reg) (s : State) : Result :=
  .next (s.setRegFlag x (s.reg y >>> 1) (lowBitFlag (s.reg y)))

/-- 8XY7 (R171). -/
def execSubnReg (x y : Reg) (s : State) : Result :=
  .next (s.setRegFlag x (s.reg y - s.reg x) (noBorrowFlag (s.reg y) (s.reg x)))

/-- 8XYE: the shifted value is VY (R172). -/
def execShlReg (x y : Reg) (s : State) : Result :=
  .next (s.setRegFlag x (s.reg y <<< 1) (highBitFlag (s.reg y)))

/-- The random byte of this cycle, and the state that has drawn it (R173; log 2). -/
def State.draw (s : State) : Byte × State :=
  (Config.randIn s.draws, s.setDraws (s.draws + 1))

/-- CXNN (R174). -/
def execRnd (x : Reg) (nn : Byte) (s : State) : Result :=
  .next (s.draw.2.setReg x (s.draw.1 &&& nn))

end Sys2Proof.Machine
end

