-- ==== Sys2Proof/Machine/ControlFlow.lean ====
section
/-! DEFINITION. Meanings of the control-flow family (spec/41_control_flow.md R140 to R148): the
execute phase, which begins with PC already advanced (R11, R122; log 13). -/

namespace Sys2Proof.Machine

/-- 00EE (R140): pop into PC; with the stack empty, the entry of StackUnderflow (R261, R262). -/
def execRet (s : State) : Result :=
  match s.pop with
  | some (a, t) => .next (t.setPc a)
  | none => .next (s.raiseFault .stackUnderflow)

/-- 1NNN (R141). -/
def execJp (nnn : BitVec 12) (s : State) : Result := .next (s.setPc (addrImm nnn))

/-- 2NNN (R142): push the advanced PC, jump; with the stack full, the entry of StackOverflow (R263). -/
def execCall (nnn : BitVec 12) (s : State) : Result :=
  match s.push s.pc with
  | some t => .next (t.setPc (addrImm nnn))
  | none => .next (s.raiseFault .stackOverflow)

/-- BNNN (R143). -/
def execJpx (nnn : BitVec 12) (s : State) : Result := .next (s.setPc (jpxTarget s nnn))

/-- 3XNN (R145). -/
def execSeImm (x : Reg) (nn : Byte) (s : State) : Result := .next (s.skipIf (s.reg x == nn))

/-- 4XNN (R146). -/
def execSneImm (x : Reg) (nn : Byte) (s : State) : Result := .next (s.skipIf (s.reg x != nn))

/-- 5XY0 (R147). -/
def execSeReg (x y : Reg) (s : State) : Result := .next (s.skipIf (s.reg x == s.reg y))

/-- 9XY0 (R148). -/
def execSneReg (x y : Reg) (s : State) : Result := .next (s.skipIf (s.reg x != s.reg y))

end Sys2Proof.Machine
end

