-- ==== Sys2Proof/Machine/Display.lean ====
section
/-! DEFINITION. The display engine and the meanings of its family (spec/44_display.md R210 to R215). -/

namespace Sys2Proof.Machine

/-- The display buffer FB (R30). -/
abbrev FrameBuffer := Vector Row 32

/-- `clear()`: every row 0 (R210). -/
def clearedFb : FrameBuffer := Vector.replicate 32 0#64

/-- The mask of a sprite byte at column `x`: on screen for x ≤ 56, its right part dropped above
(R211). A column above 63 cannot be written (D22): log 14. -/
def spriteMask (x : BitVec 6) (b : Byte) : Row :=
  if x.toNat ≤ 56 then b.setWidth 64 <<< (56 - x.toNat) else b.setWidth 64 >>> (x.toNat - 56)

/-- `draw_sprite_row(x, y, b)`: the buffer after it and the collision bit (R211); a row at 32 or
below the screen is dropped (R212). -/
def drawSpriteRow (fb : FrameBuffer) (x : BitVec 6) (y : Nat) (b : Byte) : FrameBuffer × Bool :=
  if h : y < 32 then
    (fb.set y (fb[y] ^^^ spriteMask x b), fb[y] &&& spriteMask x b != 0#64)
  else (fb, false)

/-- The loop of DXYN from sprite row `r` on, over the rows left: the sprite byte is read at I + r and
drawn at row y + r; `hit` holds whether a row has collided (R215). -/
def drawRows (s : State) (x : BitVec 6) (y : Nat) : Nat → Nat → FrameBuffer → Bool → FrameBuffer × Bool
  | _, 0, fb, hit => (fb, hit)
  | r, left + 1, fb, hit =>
    let drawn := drawSpriteRow fb x (y + r) (s.memRead (indirect s r))
    drawRows s x y (r + 1) left drawn.1 (hit || drawn.2)

/-- 00E0 (R214). -/
def execCls (s : State) : Result := .next (s.setFb clearedFb)

/-- DXYN: coordinates and I are read first, VF is written once, last (R215). -/
def execDrw (x y : Reg) (n : Nibble) (s : State) : Result :=
  let drawn := drawRows s (startColumn s x) (startRow s y) 0 n.toNat s.fb false
  .next ((s.setFb drawn.1).setReg vf (flagByte drawn.2))

end Sys2Proof.Machine
end

