-- ==== Sys2Proof/Machine/IndexMemory.lean ====
section
/-! DEFINITION. Meanings of the index and memory family (spec/43_index_memory.md R190 to R197). None
can fault: the bus reduces every address (R61). -/

namespace Sys2Proof.Machine

/-- ANNN (R191). -/
def execLdI (nnn : BitVec 12) (s : State) : Result := .next (s.setI (addrImm nnn))

/-- FX1E, modulo 2^16, no flag (R192). -/
def execAddI (x : Reg) (s : State) : Result := .next (s.setI (s.i + regWide s x))

/-- FX29: an address is computed, no memory is read (R194). -/
def execLdF (x : Reg) (s : State) : Result := .next (s.setI (glyphAddr s x))

/-- FX33: hundreds, tens, units at I, I + 1, I + 2; I is kept (R195). -/
def execLdB (x : Reg) (s : State) : Result :=
  .next (s.placeBytes (indirect s 0) (bcdDigits (s.reg x)))

/-- The loop of FX55 over the registers left: store one, step I (R196). -/
def storeLoop : List Reg → State → State
  | [], s => s
  | r :: rest, s => storeLoop rest ((s.memWrite s.i (s.reg r)).setI (s.i + 1#16))

/-- FX55 (R196). -/
def execStoreRegs (x : Reg) (s : State) : Result := .next (storeLoop (regsUpTo x) s)

/-- The loop of FX65 over the registers left: load one, step I (R197). -/
def loadLoop : List Reg → State → State
  | [], s => s
  | r :: rest, s => loadLoop rest ((s.setReg r (s.memRead s.i)).setI (s.i + 1#16))

/-- FX65 (R197). -/
def execLoadRegs (x : Reg) (s : State) : Result := .next (loadLoop (regsUpTo x) s)

end Sys2Proof.Machine
end

