-- ==== Sys2Proof/Machine/TimersKeypad.lean ====
section
/-! DEFINITION. The timer tick, the input latch and the meanings of their family
(spec/45_timers_keypad.md R230 to R243). -/

namespace Sys2Proof.Machine

/-- One timer's tick: down by 1, floored at 0 (R231). -/
def tickByte (t : Byte) : Byte := if t = 0#8 then 0#8 else t - 1#8

/-- The timer tick: both timers once (R231). -/
def State.timerTick (s : State) : State := (s.setDt (tickByte s.dt)).setSt (tickByte s.st)

/-- Whether key `k` is down in the latch (R28). -/
def State.keyDown (s : State) (k : Key) : Bool := s.keys.getLsbD k.val

/-- The lowest key that is down, if any (R240, decision D9). -/
def State.firstKeyDown (s : State) : Option Key := (List.finRange 16).find? s.keyDown

/-- The key index as a byte, 0x00 to 0x0F (R241). -/
def keyByte (k : Key) : Byte := BitVec.ofNat 8 k.val

/-- FX07 (R232). -/
def execLdVxDt (x : Reg) (s : State) : Result := .next (s.setReg x s.dt)

/-- FX15 (R233). -/
def execLdDtVx (x : Reg) (s : State) : Result := .next (s.setDt (s.reg x))

/-- FX18 (R234). -/
def execLdStVx (x : Reg) (s : State) : Result := .next (s.setSt (s.reg x))

/-- EX9E (R237). -/
def execSkp (x : Reg) (s : State) : Result := .next (s.skipIf (s.keyDown (keyOperand s x)))

/-- EXA1 (R238). -/
def execSknp (x : Reg) (s : State) : Result := .next (s.skipIf (!s.keyDown (keyOperand s x)))

/-- FX0A, one poll (R241): with no key latched, scan and latch the lowest key down; with a key
latched, hold the tone while it is down (R242) and complete once it is up. -/
def execLdVxK (x : Reg) (s : State) : Result :=
  match s.waitKey with
  | none =>
    match s.firstKeyDown with
    | some k => .next (s.setWaitKey (some k)).rewind
    | none => .next s.rewind
  | some k =>
    if s.keyDown k then .next (s.setSt Config.keywaitTone).rewind
    else .next ((s.setReg x (keyByte k)).setWaitKey none)

end Sys2Proof.Machine
end

