-- ==== Sys2Proof/Machine/Cycle.lean ====
section
/-! DEFINITION. One cycle of the core (spec/40_cycle.md R120 to R125), the host's commands as wholes
(spec/10_state.md R40, R126, R127), and the same commands one cycle at a time, which is what a step
of the model runs. -/

namespace Sys2Proof.Machine

/-- STEP (R120): nothing on a halted core (R127); else fetch, advance, decode, and the execute phase
of the instruction or, for an unknown opcode, nothing more (R124). -/
def cycle (s : State) : Result :=
  if s.halted then .next s
  else match decodeOp s.fetchWord with
    | .instr i => exec i s.advance
    | .unknown _ => .next s.advance

/-- The loop of BATCH: the cycles left, then one timer tick; a fault ends it at once (R126, R127). -/
def batchLoop : Nat → State → Result
  | 0, s => .next s.timerTick
  | n + 1, s =>
    match cycle s with
    | .next t => if t.halted then .next t else batchLoop n t
    | .fault r => .fault r
    | .refused r => .refused r

/-- BATCH(n) as a whole (R126); nothing on a halted core (R127). -/
def runBatch (n : Nat) (s : State) : Result := if s.halted then .next s else batchLoop n s

/-- RESET(image) (R290): the whole state of the machine is replaced; its parameters and what is the
host's own stay (log 15). An image that does not fit is no legal command (R69). -/
def runReset (image : List Byte) (s : State) : Result :=
  if imageWellFormed image then
    .next (((resetWith s.params image).setDraws s.draws).setPending s.pending)
  else .refused .oversizedImage

/-- A command of the host, run to completion (R40). -/
def runCommand (c : Command) (s : State) : Result :=
  match c with
  | .reset image => runReset image s
  | .setKeys snapshot => .next (s.setKeys snapshot)
  | .step => cycle s
  | .batch n => runBatch n s

/-- A step inside a batch with `n` cycles left: one cycle, or after the last the timer tick (R126).
A fault ends the batch without its tick (R127). -/
def batchStep (n : Nat) (s : State) : Result :=
  if s.halted then .next (s.setBatch none)
  else match n with
    | 0 => .next (s.timerTick.setBatch none)
    | m + 1 =>
      match cycle (s.setBatch (some m)) with
      | .next t => .next (if t.halted then t.setBatch none else t)
      | .fault r => .fault r
      | .refused r => .refused r

/-- The first step of a command: BATCH opens a batch, every other command is one step. -/
def startCommand (c : Command) (s : State) : Result :=
  match c with
  | .reset image => runReset image s
  | .setKeys snapshot => .next (s.setKeys snapshot)
  | .step => cycle s
  | .batch n => .next (if s.halted then s else s.setBatch (some n))

/-- One step of the machine and its host (log 7): the batch in progress goes on; else the next command
the host has listed begins; with none listed the host issues STEP. -/
def hostStep (s : State) : Result :=
  match s.batch with
  | some n => batchStep n s
  | none =>
    match s.pending with
    | [] => cycle s
    | c :: rest => startCommand c (s.setPending rest)

end Sys2Proof.Machine
end

