-- ==== Sys2Proof/Machine/Step.lean ====
section
/-! DEFINITION. The step of the model, and how an instruction is placed for it. -/

namespace Sys2Proof.Machine

/-- One step: one cycle of the core or one move of its host (Machine/Cycle.lean). -/
def step (s : State) : Host.Outcome State Fault Refusal := hostStep s

/-- `s` with the word `w` (its bits from `nbits` up 0) stored at PC, the core not halted and the host
about to issue STEP, so that the next step runs it (log 8). -/
def State.withFetchWord (s : State) (nbits w : Nat) : State :=
  s.placeWord (BitVec.ofNat 16 (w % 2 ^ nbits))

end Sys2Proof.Machine
end

