-- ==== Sys2Proof/Machine/Outputs.lean ====
section
/-! DEFINITION. What the host reads between commands (spec/10_state.md R42): the display, the sound
timer, the fault latch, and the optional diagnostic of an unknown opcode (spec/60_exceptions.md R265),
which is an output of a cycle and not state: log 16. -/

namespace Sys2Proof.Machine

/-- The pixel at column `c` (0 leftmost) of row `y` is FB[y][63 − c] (R30, R216). -/
def State.pixel (s : State) (c : Fin 64) (y : Fin 32) : Bool := s.fb[y].getLsbD (63 - c.val)

/-- The sound output (R42, R235). -/
def State.soundOut (s : State) : Byte := s.st

/-- The code in FAULT: 0 none, 1 StackUnderflow, 2 StackOverflow (R32, R260). -/
def State.faultOut (s : State) : Nat :=
  match s.fault with
  | none => 0
  | some .stackUnderflow => 1
  | some .stackOverflow => 2

/-- `Diag(op, a)`: the unknown word and the PC it was fetched from (R265). -/
structure Diag where
  op : Word
  addr : Word
  deriving DecidableEq, Repr

/-- The diagnostic a cycle that begins in `s` presents, if any (R124, R265). -/
def State.cycleDiag (s : State) : Option Diag :=
  if s.halted then none
  else match decodeOp s.fetchWord with
    | .instr _ => none
    | .unknown _ => some ⟨s.fetchWord, s.pc⟩

/-- Whether the next step of `s` is a cycle of the core (log 7). -/
def State.runsCycle (s : State) : Bool :=
  match s.batch with
  | some 0 => false
  | some (_ + 1) => true
  | none =>
    match s.pending with
    | [] => true
    | .step :: _ => true
    | .reset _ :: _ => false
    | .setKeys _ :: _ => false
    | .batch _ :: _ => false

/-- The diagnostic the next step presents, if any. -/
def State.stepDiag (s : State) : Option Diag := if s.runsCycle then s.cycleDiag else none

end Sys2Proof.Machine
end

