-- ==== Sys2Proof/Safety.lean ====
section
/-! DEFINITION. The terms claims are stated in: the pieces of state and what it means that one is
kept, the access table of spec/10_state.md R37, and the invariants of the machine (R35, R243). -/

namespace Sys2Proof.Machine

/-- The pieces of state, one for each field of `State`. -/
inductive Part where
  | v | i | pc | stack | sp | dt | st | keys | waitKey | fb | mem | fault | draws | batch | pending
  | params
  deriving DecidableEq, Repr

/-- The piece `p` is the same in `t` as in `s`; registers and memory are compared through the reads
of one register and of one byte. -/
def Part.Same (p : Part) (s t : State) : Prop :=
  match p with
  | .v => ∀ r : Reg, t.reg r = s.reg r
  | .i => t.i = s.i
  | .pc => t.pc = s.pc
  | .stack => t.stack = s.stack
  | .sp => t.sp = s.sp
  | .dt => t.dt = s.dt
  | .st => t.st = s.st
  | .keys => t.keys = s.keys
  | .waitKey => t.waitKey = s.waitKey
  | .fb => t.fb = s.fb
  | .mem => ∀ a : Word, t.memRead a = s.memRead a
  | .fault => t.fault = s.fault
  | .draws => t.draws = s.draws
  | .batch => t.batch = s.batch
  | .pending => t.pending = s.pending
  | .params => t.params = s.params

/-- Every piece of state but those in `written` is the same in `t` as in `s`. -/
def KeptBut (written : List Part) (s t : State) : Prop := ∀ p : Part, p ∉ written → p.Same s t

/-- From `s` to `t` only `V[x]` changes, and it holds `b`. -/
def WritesReg (x : Reg) (b : Byte) (s t : State) : Prop :=
  t.reg x = b ∧ (∀ r : Reg, r ≠ x → t.reg r = s.reg r) ∧ KeptBut [.v] s t

/-- From `s` to `t` only `V[x]` and VF change: VF holds `flag` and, where `x` is not VF, `V[x]` holds
`result`; where `x` is VF the result is lost (R161, R21). -/
def WritesRegFlag (x : Reg) (result flag : Byte) (s t : State) : Prop :=
  t.reg vf = flag ∧ (x ≠ vf → t.reg x = result) ∧
    (∀ r : Reg, r ≠ x → r ≠ vf → t.reg r = s.reg r) ∧ KeptBut [.v] s t

/-- From `s` to `t` only PC changes, and it holds `a`. -/
def WritesPc (a : Word) (s t : State) : Prop := t.pc = a ∧ KeptBut [.pc] s t

/-- From `s` to `t` only I changes, and it holds `a`. -/
def WritesI (a : Word) (s t : State) : Prop := t.i = a ∧ KeptBut [.i] s t

/-- From `s` to `t` nothing changes but FAULT, which holds `c` (R262). -/
def EntersFault (c : FaultCode) (s t : State) : Prop := t.fault = some c ∧ KeptBut [.fault] s t

/-- Whether a sprite of `n` rows read at I in `s`, its top left corner at column `x` and row `y`, has a
1 bit on column `c` of row `row`: bit 7 − j of sprite row r lies on column x + j of row y + r, and
what falls past the right or bottom edge lies nowhere (R213, R215). -/
def spriteCovers (s : State) (x y n : Nat) (c : Fin 64) (row : Fin 32) : Prop :=
  ∃ r j : Nat, r < n ∧ j < 8 ∧ row.val = y + r ∧ c.val = x + j ∧
    (s.memRead (s.i + BitVec.ofNat 16 r)).getLsbD (7 - j) = true

/-- While a key is awaited the word at PC is an FX0A (R35, R243). -/
def State.WaitInv (s : State) : Prop :=
  s.waitKey ≠ none → ∃ x : Reg, decodeOp s.fetchWord = .instr (.ldVxK x)

/-- The stack is an array of `STACK_DEPTH` entries, at least one, of which SP are in use (R8, R25). -/
def State.StackInv (s : State) : Prop :=
  s.params.wellFormed = true ∧ s.stack.length = s.params.stackDepth ∧ s.sp ≤ s.params.stackDepth

/-- The core has not halted: the condition of a run whose end a claim may speak of (R264). -/
def State.Running (s : State) : Prop := s.fault = none

end Sys2Proof.Machine

namespace Sys2Proof

/-- What the execute phase of an instruction may write: the access table R37, with FAULT for the two
instructions that can raise a fault (R260) and the model's count of draws for CXNN (log 2). -/
def Instr.writes : Instr → List Machine.Part
  | .cls => [.fb]
  | .ret => [.pc, .sp, .fault]
  | .call _ => [.pc, .stack, .sp, .fault]
  | .jp _ | .jpx _ => [.pc]
  | .seImm _ _ | .sneImm _ _ | .seReg _ _ | .sneReg _ _ | .skp _ | .sknp _ => [.pc]
  | .ldImm _ _ | .addImm _ _ | .ldReg _ _ | .orReg _ _ | .andReg _ _ | .xorReg _ _
  | .addReg _ _ | .subReg _ _ | .shrReg _ _ | .subnReg _ _ | .shlReg _ _ | .ldVxDt _ => [.v]
  | .rnd _ _ => [.v, .draws]
  | .drw _ _ _ => [.v, .fb]
  | .ldVxK _ => [.v, .pc, .st, .waitKey]
  | .ldDtVx _ => [.dt]
  | .ldStVx _ => [.st]
  | .ldI _ | .addI _ | .ldF _ => [.i]
  | .ldB _ => [.mem]
  | .storeRegs _ => [.i, .mem]
  | .loadRegs _ => [.v, .i]

/-- The instructions that write VF as a side effect (R21). -/
def Instr.setsFlag : Instr → Bool
  | .orReg _ _ | .andReg _ _ | .xorReg _ _ | .addReg _ _ | .subReg _ _ | .shrReg _ _
  | .subnReg _ _ | .shlReg _ _ | .drw _ _ _ => true
  | .cls | .ret | .jp _ | .call _ | .seImm _ _ | .sneImm _ _ | .seReg _ _ | .ldImm _ _
  | .addImm _ _ | .ldReg _ _ | .sneReg _ _ | .ldI _ | .jpx _ | .rnd _ _ | .skp _ | .sknp _
  | .ldVxDt _ | .ldVxK _ | .ldDtVx _ | .ldStVx _ | .addI _ | .ldF _ | .ldB _ | .storeRegs _
  | .loadRegs _ => false

/-- Whether the instruction names `r` as a destination: V[X], or V[0] to V[X] for FX65 (R37). -/
def Instr.names (r : Reg) : Instr → Bool
  | .ldImm x _ | .addImm x _ | .ldReg x _ | .orReg x _ | .andReg x _ | .xorReg x _ | .addReg x _
  | .subReg x _ | .shrReg x _ | .subnReg x _ | .shlReg x _ | .rnd x _ | .ldVxDt x | .ldVxK x => r == x
  | .loadRegs x => decide (r.toNat ≤ x.toNat)
  | .cls | .ret | .jp _ | .call _ | .seImm _ _ | .sneImm _ _ | .seReg _ _ | .sneReg _ _ | .ldI _
  | .jpx _ | .drw _ _ _ | .skp _ | .sknp _ | .ldDtVx _ | .ldStVx _ | .addI _ | .ldF _ | .ldB _
  | .storeRegs _ => false

/-- The bus addresses the instruction stores to when its execute phase begins in `s` (R195, R196). -/
def Instr.storesAt (s : Machine.State) : Instr → List Nat
  | .ldB _ => (List.range 3).map fun k => Machine.busAddr (Machine.indirect s k)
  | .storeRegs x => (List.range (x.toNat + 1)).map fun k => Machine.busAddr (Machine.indirect s k)
  | .cls | .ret | .jp _ | .call _ | .seImm _ _ | .sneImm _ _ | .seReg _ _ | .ldImm _ _
  | .addImm _ _ | .ldReg _ _ | .orReg _ _ | .andReg _ _ | .xorReg _ _ | .addReg _ _ | .subReg _ _
  | .shrReg _ _ | .subnReg _ _ | .shlReg _ _ | .sneReg _ _ | .ldI _ | .jpx _ | .rnd _ _
  | .drw _ _ _ | .skp _ | .sknp _ | .ldVxDt _ | .ldVxK _ | .ldDtVx _ | .ldStVx _ | .addI _
  | .ldF _ | .loadRegs _ => []

end Sys2Proof
end

