-- ==== Sys2Proof/Certificates/Slice0/Obligations.lean ====
section
/-! DEFINITION. The statements for the provers. In the statements about `exec`, `s` is the state when
the execute phase begins, so `s.pc` is the advanced PC, a + 2 (spec/00_scope.md R11). -/

open Sys2Proof Sys2Proof.Machine

/-! ## Encoding and decoding -/

/-- Decoding the word of an instruction, or its two bytes as memory holds them, gives the instruction
back, with every operand at every value (R90 to R95). -/
def Obligations.DecodeOfEncode : Prop :=
  ∀ i : Instr, decodeOp (encode i) = .instr i ∧
    decodeBytes (wordBytes (encode i)) = some (.instr i)

/-- Each word that decodes to an instruction is the one encoding of it (R94: at most one row). -/
def Obligations.EncodeOfDecode : Prop :=
  ∀ (op : Word) (i : Instr), decodeOp op = .instr i → encode i = op

/-- The decoder is the opcode map R95: a word lies in a row (its bits under the row's mask are the
row's match) exactly when it decodes to an instruction of that row. There are 34 rows. -/
def Obligations.DecodeFollowsOpcodeMap : Prop :=
  opcodeMap.length = 34 ∧
  ∀ r ∈ opcodeMap, ∀ op : Word,
    (op &&& r.mask = r.pat ↔ ∃ i : Instr, decodeOp op = .instr i ∧ opcodeRow i = r)

/-- The unknown opcodes are those of the table of R96, family by family. -/
def Obligations.UnknownWordsAreThoseOfTheTable : Prop :=
  ∀ op : Word, (∃ f : Nibble, decodeOp op = .unknown f) ↔
    (op.toNat < 0x1000 ∧ op.toNat ≠ 0x00E0 ∧ op.toNat ≠ 0x00EE) ∨
    (op.toNat / 0x1000 = 0x5 ∧ op.toNat % 16 ≠ 0) ∨
    (op.toNat / 0x1000 = 0x8 ∧ op.toNat % 16 ∈ [0x8, 0x9, 0xA, 0xB, 0xC, 0xD, 0xF]) ∨
    (op.toNat / 0x1000 = 0x9 ∧ op.toNat % 16 ≠ 0) ∨
    (op.toNat / 0x1000 = 0xE ∧ op.toNat % 256 ∉ [0x9E, 0xA1]) ∨
    (op.toNat / 0x1000 = 0xF ∧
      op.toNat % 256 ∉ [0x07, 0x0A, 0x15, 0x18, 0x1E, 0x29, 0x33, 0x55, 0x65])

/-- Words written out from the spec's patterns decode to the instructions they stand for, two unknown
words among them (R95, R96). -/
def Obligations.SampleWordsDecode : Prop :=
  decodeOp 0x00EE#16 = .instr .ret ∧ decodeOp 0xB210#16 = .instr (.jpx 0x210#12) ∧
  decodeOp 0x8127#16 = .instr (.subnReg 1#4 2#4) ∧ decodeOp 0xC30F#16 = .instr (.rnd 3#4 0x0F#8) ∧
  decodeOp 0xF255#16 = .instr (.storeRegs 2#4) ∧ decodeOp 0xD012#16 = .instr (.drw 0#4 1#4 2#4) ∧
  decodeOp 0xE39E#16 = .instr (.skp 3#4) ∧ decodeOp 0xF20A#16 = .instr (.ldVxK 2#4) ∧
  decodeOp 0x5121#16 = .unknown 0x5#4 ∧ decodeOp 0x0200#16 = .unknown 0x0#4

/-! ## Memory -/

/-- R61: addresses are taken modulo 4096 on both read and write. -/
def Obligations.AddressesWrapModuloMemorySize : Prop :=
  ∀ (s : State) (a c : Word) (b : Byte), a.toNat % 4096 = c.toNat % 4096 →
    s.memRead a = s.memRead c ∧ s.memWrite a b = s.memWrite c b

/-- R62: a write sets the byte at its address modulo 4096, which every read of that address then
returns, and changes nothing else; in every state, whatever its memory lists. -/
def Obligations.WriteSetsOneByteOnly : Prop :=
  ∀ (s : State) (a c : Word) (b : Byte),
    (s.memWrite a b).memRead c =
      (if c.toNat % 4096 = a.toNat % 4096 then b else s.memRead c) ∧
    KeptBut [.mem] s (s.memWrite a b)

/-- Every step keeps the canonical form of memory: addresses below 4096 and rising, no entry equal to
what an unlisted address reads as. The form is the model's own choice (log 10). -/
def Obligations.StepKeepsMemoryCanonical : Prop :=
  ∀ s t : State, Memory.wf s.params.font s.mem = true → step s = .next t →
    Memory.wf t.params.font t.mem = true

/-! ## Reset -/

/-- The register values right after RESET, for every image and all parameters (R36, R290). The values of
KEYS, WAIT_KEY and FAULT are the spec's own decisions D12 and D6 (log 1); State.reset is RESET with an
empty image and the default parameters (logs 4, 5, 8). -/
def Obligations.ResetLeavesTheTabulatedValues : Prop :=
  State.reset = resetWith defaultParams [] ∧
  ∀ (p : Config.Params) (image : List Byte),
    (∀ r : Reg, (resetWith p image).reg r = 0#8) ∧ (resetWith p image).i = 0#16 ∧
    (resetWith p image).pc = 0x0200#16 ∧ (resetWith p image).sp = 0 ∧
    (resetWith p image).dt = 0#8 ∧ (resetWith p image).st = 0#8 ∧
    (∀ (c : Fin 64) (y : Fin 32), (resetWith p image).pixel c y = false) ∧
    (∀ k : Key, (resetWith p image).keyDown k = false) ∧
    (resetWith p image).waitKey = none ∧ (resetWith p image).fault = none ∧
    (resetWith p image).params = p

/-- The map of memory after RESET with an image that fits, for every font: the image from 0x200, the
parameter FONT at 0x050 to 0x09F, zero elsewhere (R66, R69, R71). The bound on the image is decision
D14 (log 1). -/
def Obligations.ResetFillsMemoryAsMapped : Prop :=
  ∀ (p : Config.Params) (image : List Byte) (a : Word), image.length ≤ 3584 → a.toNat < 4096 →
    (resetWith p image).memRead a =
      if 0x200 ≤ a.toNat ∧ a.toNat < 0x200 + image.length then image.getD (a.toNat - 0x200) 0#8
      else if 0x050 ≤ a.toNat ∧ a.toNat < 0x0A0 then fontByte p.font (a.toNat - 0x050)
      else 0#8

/-- The invariants hold right after RESET with an image that fits (the bound is decision D14, log 1) and
a stack of at least one entry. The canonical form of memory is the model's own choice (log 10); that
no key is awaited at reset is decision D12 (log 1); the capped stack is decision D5 (logs 1, 5). -/
def Obligations.ResetMeetsTheInvariants : Prop :=
  ∀ (p : Config.Params) (image : List Byte), p.wellFormed = true → image.length ≤ 3584 →
    Memory.wf p.font (resetWith p image).mem = true ∧ (resetWith p image).WaitInv ∧
      (resetWith p image).StackInv

/-! ## The cycle, the batch and the host -/

/-- R121: the word fetched is the byte at PC times 256 plus the byte at PC + 1, each address reduced
modulo 4096 on its own. -/
def Obligations.FetchReadsTwoBytesBigEndian : Prop :=
  ∀ s : State, s.fetchWord.toNat =
    (memLookup s.params.font s.mem (s.pc.toNat % 4096)).toNat * 256 +
      (memLookup s.params.font s.mem ((s.pc.toNat + 1) % 4096)).toNat

/-- When the word at PC decodes to `i` and the core is not halted, a step that runs a cycle is the
execute phase of `i` after PC has advanced by 2: with no command listed, with STEP listed next (it is
taken off the list), and inside a batch (one cycle fewer is left; a fault ends the batch, R127). -/
def Obligations.StepRunsTheDecodedInstruction : Prop :=
  ∀ (s : State) (i : Instr), s.fault = none → decodeOp s.fetchWord = .instr i →
    s.advance.pc = s.pc + 2#16 ∧ KeptBut [.pc] s s.advance ∧
    (s.batch = none → s.pending = [] → step s = exec i s.advance) ∧
    (∀ rest : List Command, s.batch = none → s.pending = .step :: rest →
      step s = exec i (s.setPending rest).advance) ∧
    (∀ (n : Nat) (t : State), s.batch = some (n + 1) →
      exec i (s.setBatch (some n)).advance = .next t →
        step s = .next (if t.fault = none then t else t.setBatch none))

/-- R124: an unknown opcode advances PC and changes nothing else of the machine; its diagnostic names
the word and the PC it was fetched from (decision D7, log 1; log 16). So with no command listed, with
STEP listed next (it is taken off the list), and inside a batch (one cycle fewer is left); the list
and the batch counter are the model's (log 7). -/
def Obligations.UnknownOpcodeIsANoOp : Prop :=
  ∀ (s : State) (f : Nibble), s.fault = none → decodeOp s.fetchWord = .unknown f →
    (s.batch = none → s.pending = [] →
      ∃ t : State, step s = .next t ∧ t.pc = s.pc + 2#16 ∧ KeptBut [.pc] s t ∧
        s.stepDiag = some ⟨s.fetchWord, s.pc⟩) ∧
    (∀ rest : List Command, s.batch = none → s.pending = .step :: rest →
      ∃ t : State, step s = .next t ∧ t.pc = s.pc + 2#16 ∧ t.pending = rest ∧
        KeptBut [.pc, .pending] s t ∧ s.stepDiag = some ⟨s.fetchWord, s.pc⟩) ∧
    (∀ n : Nat, s.batch = some (n + 1) →
      ∃ t : State, step s = .next t ∧ t.pc = s.pc + 2#16 ∧ t.batch = some n ∧
        KeptBut [.pc, .batch] s t ∧ s.stepDiag = some ⟨s.fetchWord, s.pc⟩)

/-- R127, R264: once FAULT is set a step changes nothing but what the host's own commands change: the
key latch by SETKEYS, the host's list and batch; only RESET leaves the halted state (decisions D6, D20, D21, log 1; the host's
list, log 7). -/
def Obligations.HaltedCoreIsFrozenUntilReset : Prop :=
  ∀ (s t : State) (c : FaultCode), s.fault = some c → step s = .next t →
    (KeptBut [.keys, .batch, .pending] s t ∧
      (t.keys = s.keys ∨ ∃ (k : BitVec 16) (rest : List Command),
        s.batch = none ∧ s.pending = .setKeys k :: rest ∧ t.keys = k)) ∨
    ∃ (image : List Byte) (rest : List Command), s.batch = none ∧ s.pending = .reset image :: rest

/-- A command run one step at a time ends as the command run as a whole (R40, R126, R127): the steps
from where the command is next in the host's list reach the outcome of `runCommand` (the list and the
batch counter are the model's, log 7). -/
def Obligations.StepsRefineHostCommands : Prop :=
  ∀ (s : State) (c : Command) (rest : List Command), s.batch = none → s.pending = c :: rest →
    ∃ k : Nat, Host.Core.run core (k + 1) s = runCommand c (s.setPending rest)

/-- A batch is its cycles and then one timer tick, over any program (R126, R127, R231). The step that
ends a batch lowers each timer by one tick and changes nothing else. BATCH(n) as a whole: where `n`
cycles from `s` lead to `u`, it ends in `u` with each timer one tick lower, or, where a fault has
halted the core by then, in `u` as it is (decisions D6, D21, log 1). The last clause is the spec's
example S9, a program that jumps to itself. The batch counter is the model's (log 7). -/
def Obligations.BatchTicksTimersOnce : Prop :=
  (∀ s : State, s.batch = some 0 → s.fault = none →
    ∃ t : State, step s = .next t ∧ t.dt.toNat = s.dt.toNat - 1 ∧ t.st.toNat = s.st.toNat - 1 ∧
      t.batch = none ∧ KeptBut [.dt, .st, .batch] s t) ∧
  (∀ (n : Nat) (s u : State), s.batch = none → s.pending = [] → Host.Core.run core n s = .next u →
    ∃ t : State, runBatch n s = .next t ∧
      (u.fault = none → t.dt.toNat = u.dt.toNat - 1 ∧ t.st.toNat = u.st.toNat - 1 ∧
        KeptBut [.dt, .st] u t) ∧
      (u.fault ≠ none → KeptBut [] u t)) ∧
  (∀ (n : Nat) (s : State) (nnn : BitVec 12), s.fault = none →
    decodeOp s.fetchWord = .instr (.jp nnn) → s.pc = addrImm nnn →
    ∃ t : State, runBatch n s = .next t ∧ t.dt.toNat = s.dt.toNat - 1 ∧
      t.st.toNat = s.st.toNat - 1 ∧ KeptBut [.dt, .st] s t)

/-- The delay timer changes only at the end of a batch, by FX15, or by RESET (R26, R231). -/
def Obligations.DelayTimerMovesOnlyAtBatchEnd : Prop :=
  ∀ s t : State, step s = .next t → t.dt ≠ s.dt →
    (s.batch = some 0 ∧ s.fault = none ∧ t.dt.toNat + 1 = s.dt.toNat) ∨
    (s.runsCycle = true ∧ ∃ x : Reg, decodeOp s.fetchWord = .instr (.ldDtVx x) ∧ t.dt = s.reg x) ∨
    (s.batch = none ∧ ∃ (image : List Byte) (rest : List Command), s.pending = .reset image :: rest)

/-- The sound timer changes only at the end of a batch, by FX18, by the tone of an FX0A whose awaited key
is down, or by RESET (R27, R231, R242). In which cycles FX0A asserts the tone is decision D11 (log 1);
the tone is the free constant KEYWAIT_TONE (log 3). -/
def Obligations.SoundTimerMovesOnlyByItsOwnCauses : Prop :=
  ∀ s t : State, step s = .next t → t.st ≠ s.st →
    (s.batch = some 0 ∧ s.fault = none ∧ t.st.toNat + 1 = s.st.toNat) ∨
    (s.runsCycle = true ∧ ∃ x : Reg, decodeOp s.fetchWord = .instr (.ldStVx x) ∧ t.st = s.reg x) ∨
    (s.runsCycle = true ∧ ∃ (x : Reg) (k : Key), decodeOp s.fetchWord = .instr (.ldVxK x) ∧
      s.waitKey = some k ∧ s.keyDown k = true ∧ t.st = Config.keywaitTone) ∨
    (s.batch = none ∧ ∃ (image : List Byte) (rest : List Command), s.pending = .reset image :: rest)

/-- The key latch changes only between batches, by SETKEYS or RESET (R28, R34, R295). -/
def Obligations.KeyLatchChangesOnlyBetweenBatches : Prop :=
  ∀ s t : State, step s = .next t → t.keys ≠ s.keys →
    s.batch = none ∧ ∃ rest : List Command,
      (∃ k : BitVec 16, s.pending = .setKeys k :: rest ∧ t.keys = k) ∨
      (∃ image : List Byte, s.pending = .reset image :: rest ∧ t.keys = 0#16)

/-- RESET as the host's next command replaces the whole machine, halted or not, when the image fits,
and has no meaning when it does not (R69, R290, R291). What stays is the parameters and the
model's own: the count of draws and the host's list (log 15). -/
def Obligations.ResetCommandReplacesTheMachine : Prop :=
  ∀ (s : State) (image : List Byte) (rest : List Command), s.batch = none →
    s.pending = .reset image :: rest →
    (image.length ≤ 3584 →
      step s = .next (((resetWith s.params image).setDraws s.draws).setPending rest)) ∧
    (3584 < image.length → step s = .refused .oversizedImage)

/-- A step always answers a next state, but for a RESET whose image does not fit (R120, R69, R275). -/
def Obligations.StepStopsOnlyAtOversizedReset : Prop :=
  ∀ s : State, (∃ t : State, step s = .next t) ∨
    (s.batch = none ∧ step s = .refused .oversizedImage ∧
      ∃ (image : List Byte) (rest : List Command),
        s.pending = .reset image :: rest ∧ 3584 < image.length)

/-- The word of any instruction, placed where the next step fetches, is what that step runs (log 8). -/
def Obligations.PlacedInstructionIsRun : Prop :=
  ∀ (s : State) (i : Instr),
    step (s.withFetchWord 16 (encode i).toNat) =
      exec i (s.withFetchWord 16 (encode i).toNat).advance

/-! ## Rules over all instructions -/

/-- The access table R37: the execute phase of every instruction ends in a next state and writes only
the pieces of state its row lists, only the registers it names and, for a flag instruction, VF, and
only the bytes it stores to. -/
def Obligations.EveryInstructionWritesOnlyItsOwn : Prop :=
  ∀ (i : Instr) (s : State), ∃ t : State, exec i s = .next t ∧ KeptBut i.writes s t ∧
    (∀ r : Reg, i.names r = false → (i.setsFlag = true → r ≠ vf) → t.reg r = s.reg r) ∧
    (∀ a : Word, busAddr a ∉ i.storesAt s → t.memRead a = s.memRead a)

/-- R21: an instruction that sets the flag leaves 0 or 1 in VF, also when VF is its destination
(for which the order of writes is decision D3, log 1). -/
def Obligations.FlagInstructionsLeaveZeroOrOne : Prop :=
  ∀ (i : Instr) (s t : State), i.setsFlag = true → exec i s = .next t →
    t.reg vf = 0#8 ∨ t.reg vf = 1#8

/-- R260, R262: a fault is raised only by a return on an empty stack and by a call on a full one, and
its entry changes FAULT alone. The full stack is decision D5 (log 5), the halt D6 (log 1). -/
def Obligations.FaultsComeOnlyFromReturnAndCall : Prop :=
  ∀ (i : Instr) (s t : State), exec i s = .next t → t.fault ≠ s.fault →
    (i = .ret ∧ s.sp = 0 ∧ EntersFault .stackUnderflow s t) ∨
    (∃ nnn : BitVec 12, i = .call nnn ∧ s.sp = s.params.stackDepth ∧
      EntersFault .stackOverflow s t)

/-- R35, R243: while a key is awaited the word at PC is an FX0A; every step keeps this. -/
def Obligations.StepKeepsAwaitedKeyAtItsRead : Prop :=
  ∀ s t : State, s.WaitInv → step s = .next t → t.WaitInv

/-- R25: the stack is an array of STACK_DEPTH entries, of which SP, at most STACK_DEPTH, are in use; every
step keeps this, for every depth of at least one. The capped stack is decision D5 (logs 1, 5). -/
def Obligations.StepKeepsStackWithinDepth : Prop :=
  ∀ s t : State, s.StackInv → step s = .next t → t.StackInv

/-- R8: the parameters are arguments of the model: no step changes the depth of the stack or the font
(that they are a part of State is the model's choice, logs 4, 5). -/
def Obligations.StepKeepsTheParameters : Prop :=
  ∀ s t : State, step s = .next t → t.params = s.params

/-- R243: every instruction other than FX0A ignores WAIT_KEY and leaves it unchanged. -/
def Obligations.OnlyKeyReadSeesAwaitedKey : Prop :=
  ∀ (i : Instr) (s t : State) (w : Option Key), (∀ x : Reg, i ≠ .ldVxK x) → exec i s = .next t →
    exec i (s.setWaitKey w) = .next (t.setWaitKey w)

/-- R27: no instruction reads ST: changing it changes nothing but ST in the state after. -/
def Obligations.SoundTimerIsNeverRead : Prop :=
  ∀ (i : Instr) (s : State) (b : Byte), ∃ t u : State, exec i s = .next t ∧
    exec i (s.setSt b) = .next u ∧ KeptBut [.st] t u

/-- R25: stack entries at index SP and above are never read: whatever they hold, the state after
differs in such entries at most. So nothing rests on what they hold at reset (log 6). -/
def Obligations.UnusedStackEntriesAreNeverRead : Prop :=
  ∀ (i : Instr) (s : State) (other : List Word), other.length = s.stack.length →
    (∀ k : Nat, k < s.sp → (s.setStack other s.sp).entry k = s.entry k) →
    ∃ t u : State, exec i s = .next t ∧ exec i (s.setStack other s.sp) = .next u ∧
      KeptBut [.stack] t u ∧ ∀ k : Nat, k < t.sp → u.entry k = t.entry k

/-! ## Control flow -/

/-- R140: RET pops the top of the stack into PC; with the stack empty it enters StackUnderflow, and
nothing but FAULT changes (the halt is decision D6, log 1). -/
def Obligations.ReturnPopsOrUnderflows : Prop :=
  ∀ s : State,
    (s.sp = 0 → ∃ t : State, exec .ret s = .next t ∧ EntersFault .stackUnderflow s t) ∧
    (∀ k : Nat, s.sp = k + 1 →
      ∃ t : State, exec .ret s = .next t ∧ t.pc = s.entry k ∧ t.sp = k ∧ KeptBut [.pc, .sp] s t)

/-- CALL pushes the advanced PC and jumps; with the stack full it enters StackOverflow, and nothing but
FAULT changes (R142, R263; decision D5, logs 1, 5). For every depth of the stack. -/
def Obligations.CallPushesOrOverflows : Prop :=
  ∀ (nnn : BitVec 12) (s : State),
    (s.sp = s.params.stackDepth →
      ∃ t : State, exec (.call nnn) s = .next t ∧ EntersFault .stackOverflow s t) ∧
    (s.StackInv → s.sp < s.params.stackDepth →
      ∃ t : State, exec (.call nnn) s = .next t ∧ t.entry s.sp = s.pc ∧ t.sp = s.sp + 1 ∧
        t.pc.toNat = nnn.toNat ∧ (∀ j : Nat, j ≠ s.sp → t.entry j = s.entry j) ∧
        KeptBut [.pc, .stack, .sp] s t)

/-- A return right after a call goes on after the call, with the stack as it was (R140, R142; the capped
stack is decision D5, logs 1, 5). -/
def Obligations.ReturnUndoesCall : Prop :=
  ∀ (nnn : BitVec 12) (s : State), s.StackInv → s.sp < s.params.stackDepth →
    ∃ t u : State, exec (.call nnn) s = .next t ∧ exec .ret t = .next u ∧ u.pc = s.pc ∧
      u.sp = s.sp ∧ KeptBut [.stack] s u ∧ ∀ j : Nat, j ≠ s.sp → u.entry j = s.entry j

/-- R141: JP loads PC with NNN. -/
def Obligations.JumpLoadsItsAddress : Prop :=
  ∀ (nnn : BitVec 12) (s : State), ∃ t : State, exec (.jp nnn) s = .next t ∧
    t.pc.toNat = nnn.toNat ∧ KeptBut [.pc] s t

/-- R143: BNNN loads PC with NNN plus VX, X being the top nibble of NNN; the sum never wraps. -/
def Obligations.IndexedJumpAddsItsRegister : Prop :=
  ∀ (nnn : BitVec 12) (s : State), ∃ t : State, exec (.jpx nnn) s = .next t ∧
    t.pc.toNat = nnn.toNat + (s.reg (BitVec.ofNat 4 (nnn.toNat / 256))).toNat ∧ KeptBut [.pc] s t

/-- R145, R146: 3XNN and 4XNN skip when VX equals, or differs from, NN; that PC wraps modulo 2^16 is
decision D1 (log 1). -/
def Obligations.ImmediateSkips : Prop :=
  ∀ (x : Reg) (nn : Byte) (s : State),
    (∃ t : State, exec (.seImm x nn) s = .next t ∧
      WritesPc (if s.reg x = nn then s.pc + 2#16 else s.pc) s t) ∧
    (∃ t : State, exec (.sneImm x nn) s = .next t ∧
      WritesPc (if s.reg x = nn then s.pc else s.pc + 2#16) s t)

/-- R147, R148: 5XY0 and 9XY0 skip when VX equals, or differs from, VY; with any other low nibble the
word is an unknown opcode. That PC wraps modulo 2^16 is decision D1, the strict decode D17 (log 1). -/
def Obligations.RegisterSkips : Prop :=
  (∀ (x y : Reg) (s : State),
    (∃ t : State, exec (.seReg x y) s = .next t ∧
      WritesPc (if s.reg x = s.reg y then s.pc + 2#16 else s.pc) s t) ∧
    (∃ t : State, exec (.sneReg x y) s = .next t ∧
      WritesPc (if s.reg x = s.reg y then s.pc else s.pc + 2#16) s t)) ∧
  (∀ (x y : Reg) (n : Nibble),
    (decodeOp (0x5#4 ++ x ++ y ++ n) =
      if n = 0#4 then .instr (.seReg x y) else .unknown 0x5#4) ∧
    (decodeOp (0x9#4 ++ x ++ y ++ n) =
      if n = 0#4 then .instr (.sneReg x y) else .unknown 0x9#4))

/-! ## Arithmetic and logic -/

/-- R162, R163, R164: 6XNN loads NN, 7XNN adds NN modulo 256, 8XY0 copies VY; no flag is written: where
X is not 15, VF is kept like every other register. -/
def Obligations.LoadsAndImmediateAdd : Prop :=
  ∀ (x y : Reg) (nn : Byte) (s : State),
    (∃ t : State, exec (.ldImm x nn) s = .next t ∧ WritesReg x nn s t) ∧
    (∃ t : State, exec (.addImm x nn) s = .next t ∧
      WritesReg x (BitVec.ofNat 8 (((s.reg x).toNat + nn.toNat) % 256)) s t) ∧
    (∃ t : State, exec (.ldReg x y) s = .next t ∧ WritesReg x (s.reg y) s t)

/-- R165, R166, R167: OR, AND and XOR of VX and VY, bit by bit, to VX, and VF forced to 0. That VF is
written last, which X = 15 shows, is decision D3 (log 1). -/
def Obligations.LogicForcesVfToZero : Prop :=
  ∀ (x y : Reg) (s : State),
    (∃ (t : State) (r : Byte), exec (.orReg x y) s = .next t ∧ WritesRegFlag x r 0#8 s t ∧
      ∀ k : Fin 8, r[k] = ((s.reg x)[k] || (s.reg y)[k])) ∧
    (∃ (t : State) (r : Byte), exec (.andReg x y) s = .next t ∧ WritesRegFlag x r 0#8 s t ∧
      ∀ k : Fin 8, r[k] = ((s.reg x)[k] && (s.reg y)[k])) ∧
    (∃ (t : State) (r : Byte), exec (.xorReg x y) s = .next t ∧ WritesRegFlag x r 0#8 s t ∧
      ∀ k : Fin 8, r[k] = ((s.reg x)[k] ^^ (s.reg y)[k]))

/-- R168: 8XY4 adds modulo 256 and VF ends as the carry, for X = 15 by decision D3 (log 1). -/
def Obligations.AddSetsCarry : Prop :=
  ∀ (x y : Reg) (s : State), ∃ t : State, exec (.addReg x y) s = .next t ∧
    WritesRegFlag x (BitVec.ofNat 8 (((s.reg x).toNat + (s.reg y).toNat) % 256))
      (if 255 < (s.reg x).toNat + (s.reg y).toNat then 1#8 else 0#8) s t

/-- R169, R171: 8XY5 and 8XY7 subtract modulo 256 and VF ends as "no borrow", for X = 15 by
decision D3 (log 1). -/
def Obligations.SubtractSetsNoBorrow : Prop :=
  ∀ (x y : Reg) (s : State),
    (∃ t : State, exec (.subReg x y) s = .next t ∧
      WritesRegFlag x (BitVec.ofNat 8 (((s.reg x).toNat + 256 - (s.reg y).toNat) % 256))
        (if (s.reg y).toNat ≤ (s.reg x).toNat then 1#8 else 0#8) s t) ∧
    (∃ t : State, exec (.subnReg x y) s = .next t ∧
      WritesRegFlag x (BitVec.ofNat 8 (((s.reg y).toNat + 256 - (s.reg x).toNat) % 256))
        (if (s.reg x).toNat ≤ (s.reg y).toNat then 1#8 else 0#8) s t)

/-- R170, R172: 8XY6 and 8XYE shift VY, not VX, by one into VX, and VF ends as the bit shifted out,
for X = 15 by decision D3 (log 1). -/
def Obligations.ShiftsTakeVyAndSetTheBitOut : Prop :=
  ∀ (x y : Reg) (s : State),
    (∃ t : State, exec (.shrReg x y) s = .next t ∧
      WritesRegFlag x (BitVec.ofNat 8 ((s.reg y).toNat / 2))
        (BitVec.ofNat 8 ((s.reg y).toNat % 2)) s t) ∧
    (∃ t : State, exec (.shlReg x y) s = .next t ∧
      WritesRegFlag x (BitVec.ofNat 8 ((s.reg y).toNat * 2 % 256))
        (BitVec.ofNat 8 ((s.reg y).toNat / 128)) s t)

/-- CXNN writes the random byte AND NN to VX and no flag (R173, R174). The draw is the model's free value
at its own count, which goes up by one (log 2); the statement holds whatever the values are. -/
def Obligations.RandomIsMaskedByImmediate : Prop :=
  ∀ (x : Reg) (nn : Byte) (s : State), ∃ t : State, exec (.rnd x nn) s = .next t ∧
    t.reg x = Config.randIn s.draws &&& nn ∧ t.draws = s.draws + 1 ∧
    (∀ k : Fin 8, nn[k] = false → (t.reg x)[k] = false) ∧
    (∀ r : Reg, r ≠ x → t.reg r = s.reg r) ∧ KeptBut [.v, .draws] s t

/-! ## Index and memory -/

/-- R191, R192, R194: ANNN loads I, FX1E adds VX to I modulo 2^16 with no flag, FX29 loads the address of
the glyph of VX's low nibble. The wrap of I is decision D2 (log 1). -/
def Obligations.IndexLoadsAndAdd : Prop :=
  ∀ (nnn : BitVec 12) (x : Reg) (s : State),
    (∃ t : State, exec (.ldI nnn) s = .next t ∧ WritesI (BitVec.ofNat 16 nnn.toNat) s t) ∧
    (∃ t : State, exec (.addI x) s = .next t ∧
      WritesI (BitVec.ofNat 16 ((s.i.toNat + (s.reg x).toNat) % 65536)) s t) ∧
    (∃ t : State, exec (.ldF x) s = .next t ∧
      WritesI (BitVec.ofNat 16 (0x50 + (s.reg x).toNat % 16 * 5)) s t)

/-- R195: FX33 stores the hundreds, tens and units of VX at I, I + 1 and I + 2, each address reduced on
its own; no other byte and nothing else changes. -/
def Obligations.BcdStoresThreeDigits : Prop :=
  ∀ (x : Reg) (s : State), ∃ t : State, exec (.ldB x) s = .next t ∧
    (t.memRead (indirect s 0)).toNat = (s.reg x).toNat / 100 ∧
    (t.memRead (indirect s 1)).toNat = (s.reg x).toNat / 10 % 10 ∧
    (t.memRead (indirect s 2)).toNat = (s.reg x).toNat % 10 ∧
    (∀ a : Word, (∀ k : Fin 3, busAddr a ≠ busAddr (indirect s k.val)) →
      t.memRead a = s.memRead a) ∧
    KeptBut [.mem] s t

/-- R196: FX55 stores V0 to VX from I up and leaves I past them; no other byte and nothing else
changes. The wrap of I is decision D2 (log 1). -/
def Obligations.StoreRegistersFromIndex : Prop :=
  ∀ (x : Reg) (s : State), ∃ t : State, exec (.storeRegs x) s = .next t ∧
    (∀ r : Reg, r.toNat ≤ x.toNat → t.memRead (indirect s r.toNat) = s.reg r) ∧
    (∀ a : Word, (∀ r : Reg, r.toNat ≤ x.toNat → busAddr a ≠ busAddr (indirect s r.toNat)) →
      t.memRead a = s.memRead a) ∧
    t.i.toNat = (s.i.toNat + x.toNat + 1) % 65536 ∧ KeptBut [.i, .mem] s t

/-- R197: FX65 loads V0 to VX from I up and leaves I past them; the registers above VX and everything
else are kept. The wrap of I is decision D2 (log 1). -/
def Obligations.LoadRegistersFromIndex : Prop :=
  ∀ (x : Reg) (s : State), ∃ t : State, exec (.loadRegs x) s = .next t ∧
    (∀ r : Reg, t.reg r =
      if r.toNat ≤ x.toNat then s.memRead (indirect s r.toNat) else s.reg r) ∧
    t.i.toNat = (s.i.toNat + x.toNat + 1) % 65536 ∧ KeptBut [.v, .i] s t

/-- What an instruction stores is what the very next fetch reads, at whichever byte of the next word it
lands (R75, R298; the spec's T-M17): FX55 with any X and FX33, wherever I points. -/
def Obligations.StoredCodeIsFetchedAtOnce : Prop :=
  ∀ (x : Reg) (s : State),
    (∃ t : State, exec (.storeRegs x) s = .next t ∧ ∀ r : Reg, r.toNat ≤ x.toNat →
      (busAddr (indirect s r.toNat) = busAddr s.pc → t.fetchWord.toNat / 256 = (s.reg r).toNat) ∧
      (busAddr (indirect s r.toNat) = busAddr (s.pc + 1#16) →
        t.fetchWord.toNat % 256 = (s.reg r).toNat)) ∧
    (∃ t : State, exec (.ldB x) s = .next t ∧ ∀ k : Fin 3,
      (busAddr (indirect s k.val) = busAddr s.pc →
        t.fetchWord.toNat / 256 = (s.reg x).toNat / 10 ^ (2 - k.val) % 10) ∧
      (busAddr (indirect s k.val) = busAddr (s.pc + 1#16) →
        t.fetchWord.toNat % 256 = (s.reg x).toNat / 10 ^ (2 - k.val) % 10))

/-! ## Display -/

/-- R210, R214: 00E0 turns every pixel off and changes nothing else. -/
def Obligations.ClearTurnsEveryPixelOff : Prop :=
  ∀ s : State, ∃ t : State, exec .cls s = .next t ∧
    (∀ (c : Fin 64) (y : Fin 32), t.pixel c y = false) ∧ KeptBut [.fb] s t

/-- DXYN, pixel by pixel (R211 to R213, R215; the order of reads with X or Y = 15 is decision D4): the
pixels the sprite covers are toggled and no others, the start position wraps and the body clips, VF is
1 exactly when a covered pixel was on, and nothing else changes. -/
def Obligations.DrawTogglesCoveredPixels : Prop :=
  ∀ (x y : Reg) (n : Nibble) (s : State), ∃ t : State, exec (.drw x y n) s = .next t ∧
    (∀ (c : Fin 64) (row : Fin 32),
      (spriteCovers s ((s.reg x).toNat % 64) ((s.reg y).toNat % 32) n.toNat c row →
        t.pixel c row = !s.pixel c row) ∧
      (¬ spriteCovers s ((s.reg x).toNat % 64) ((s.reg y).toNat % 32) n.toNat c row →
        t.pixel c row = s.pixel c row)) ∧
    (t.reg vf = 0#8 ∨ t.reg vf = 1#8) ∧
    (t.reg vf = 1#8 ↔ ∃ (c : Fin 64) (row : Fin 32), s.pixel c row = true ∧
      spriteCovers s ((s.reg x).toNat % 64) ((s.reg y).toNat % 32) n.toNat c row) ∧
    (∀ r : Reg, r ≠ vf → t.reg r = s.reg r) ∧ KeptBut [.v, .fb] s t

/-- The same sprite drawn twice at one place leaves the display as it was; on pixels that were off the
first draw reports no collision and the second reports one when it erases any (R211, R215; the spec's
example S5). Neither coordinate register is VF, which the first draw overwrites. -/
def Obligations.DrawingTwiceRestoresTheDisplay : Prop :=
  ∀ (x y : Reg) (n : Nibble) (s : State), x ≠ vf → y ≠ vf →
    ∃ t u : State, exec (.drw x y n) s = .next t ∧ exec (.drw x y n) t = .next u ∧ u.fb = s.fb ∧
      ((∀ (c : Fin 64) (row : Fin 32),
          spriteCovers s ((s.reg x).toNat % 64) ((s.reg y).toNat % 32) n.toNat c row →
          s.pixel c row = false) →
        t.reg vf = 0#8 ∧
        ((∃ (c : Fin 64) (row : Fin 32),
          spriteCovers s ((s.reg x).toNat % 64) ((s.reg y).toNat % 32) n.toNat c row) →
          u.reg vf = 1#8))

/-! ## Timers and keypad -/

/-- R232, R233, R234: FX07 reads DT into VX, FX15 and FX18 load DT and ST with VX. -/
def Obligations.TimerLoads : Prop :=
  ∀ (x : Reg) (s : State),
    (∃ t : State, exec (.ldVxDt x) s = .next t ∧ WritesReg x s.dt s t) ∧
    (∃ t : State, exec (.ldDtVx x) s = .next t ∧ t.dt = s.reg x ∧ KeptBut [.dt] s t) ∧
    (∃ t : State, exec (.ldStVx x) s = .next t ∧ t.st = s.reg x ∧ KeptBut [.st] s t)

/-- R237, R238: EX9E and EXA1 skip when the key VX mod 16 is down, or up; that PC wraps
modulo 2^16 is decision D1 (log 1). -/
def Obligations.KeySkips : Prop :=
  ∀ (x : Reg) (s : State),
    (∃ t : State, exec (.skp x) s = .next t ∧
      WritesPc (if s.keys.getLsbD ((s.reg x).toNat % 16) then s.pc + 2#16 else s.pc) s t) ∧
    (∃ t : State, exec (.sknp x) s = .next t ∧
      WritesPc (if s.keys.getLsbD ((s.reg x).toNat % 16) then s.pc else s.pc + 2#16) s t)

/-- One poll of FX0A (R240, R241, R242; decisions D9, D10, D11): scanning with no key down; latching the
lowest key that is down; holding the tone while the latched key is down; completing once it is up.
The tone is the free constant KEYWAIT_TONE (log 3). -/
def Obligations.KeyReadPolls : Prop :=
  ∀ (x : Reg) (s : State),
    (s.waitKey = none → (∀ k : Key, s.keyDown k = false) →
      ∃ t : State, exec (.ldVxK x) s = .next t ∧ WritesPc (s.pc - 2#16) s t) ∧
    (∀ k : Key, s.waitKey = none → s.keyDown k = true → (∀ j : Key, j < k → s.keyDown j = false) →
      ∃ t : State, exec (.ldVxK x) s = .next t ∧ t.waitKey = some k ∧ t.pc = s.pc - 2#16 ∧
        KeptBut [.pc, .waitKey] s t) ∧
    (∀ k : Key, s.waitKey = some k → s.keyDown k = true →
      ∃ t : State, exec (.ldVxK x) s = .next t ∧ t.st = Config.keywaitTone ∧ t.pc = s.pc - 2#16 ∧
        KeptBut [.pc, .st] s t) ∧
    (∀ k : Key, s.waitKey = some k → s.keyDown k = false →
      ∃ t : State, exec (.ldVxK x) s = .next t ∧ (t.reg x).toNat = k.val ∧ t.waitKey = none ∧
        (∀ r : Reg, r ≠ x → t.reg r = s.reg r) ∧ KeptBut [.v, .waitKey] s t)

/-- FX0A reached with key `k` the lowest down, one cycle, then a snapshot in which `k` is up, then one
cycle: VX holds `k`, no key is awaited and PC is past the instruction (R241; the spec's example S7). -/
def Obligations.KeyReadCompletesOnRelease : Prop :=
  ∀ (s : State) (x : Reg) (k : Key) (snapshot : BitVec 16), s.fault = none → s.batch = none →
    s.pending = [.step, .setKeys snapshot, .step] → decodeOp s.fetchWord = .instr (.ldVxK x) →
    s.waitKey = none → s.keyDown k = true → (∀ j : Key, j < k → s.keyDown j = false) →
    snapshot.getLsbD k.val = false →
    ∃ t : State, Host.Core.run core 3 s = .next t ∧ (t.reg x).toNat = k.val ∧ t.waitKey = none ∧
      t.pc = s.pc + 2#16 ∧ t.keys = snapshot
end

