-- ==== Sys2Proof/Laws/Memory.lean ====
section
/-! SUPPORT. The laws of memory: a lookup after a store, and that every operation keeps the canonical
form (spec/20_memory.md R62, R79). -/

namespace Sys2Proof.Machine

variable {font : Config.Font}

theorem busAddr_lt (a : Word) : busAddr a < Config.memSize := Nat.mod_lt _ (by decide)

theorem memLookup_memInsert (m : Memory) (k j : Nat) (b : Byte) :
    memLookup font (memInsert m k b) j = if j = k then b else memLookup font m j := by
  induction m with
  | nil => rfl
  | cons c rest ih =>
    obtain ⟨k', b'⟩ := c
    simp only [memInsert]
    split
    · rfl
    · split
      · rename_i heq
        subst heq
        by_cases hj : j = k <;> simp [memLookup, hj]
      · rename_i hne
        by_cases hj : j = k'
        · subst hj
          simp [memLookup, Ne.symm hne]
        · simp only [memLookup, if_neg hj, ih]

theorem memLookup_filter (m : Memory) (k j : Nat) :
    memLookup font (m.filter (fun c => c.1 != k)) j =
      if j = k then resetByte font k else memLookup font m j := by
  induction m with
  | nil => by_cases hj : j = k <;> simp [memLookup, hj]
  | cons c rest ih =>
    obtain ⟨k', b'⟩ := c
    by_cases hk : k' = k
    · subst hk
      by_cases hj : j = k' <;> simp_all [memLookup]
    · by_cases hj : j = k'
      · subst hj
        simp [memLookup, hk]
      · simp [memLookup, hk, hj, ih]

/-- What a lookup answers after a store, in any memory, canonical or not (R62). -/
theorem memLookup_memStore (m : Memory) (k j : Nat) (b : Byte) :
    memLookup font (memStore font m k b) j = if j = k then b else memLookup font m j := by
  unfold memStore
  split
  · rename_i hb
    rw [memLookup_filter, hb]
  · exact memLookup_memInsert m k j b

theorem memWfFrom_mono {m : Memory} {lo lo' : Nat} (h : memWfFrom font lo m = true) (hl : lo' ≤ lo) :
    memWfFrom font lo' m = true := by
  cases m with
  | nil => rfl
  | cons c rest =>
    obtain ⟨k', b⟩ := c
    simp only [memWfFrom, Bool.and_eq_true, decide_eq_true_eq] at h ⊢
    exact ⟨⟨⟨by omega, h.1.1.2⟩, h.1.2⟩, h.2⟩

theorem memInsert_wfFrom {m : Memory} {lo k : Nat} {b : Byte} (h : memWfFrom font lo m = true)
    (hl : lo ≤ k) (hk : k < Config.memSize) (hb : b ≠ resetByte font k) :
    memWfFrom font lo (memInsert m k b) = true := by
  induction m generalizing lo with
  | nil =>
    simp only [memInsert, memWfFrom, Bool.and_eq_true, decide_eq_true_eq]
    exact ⟨⟨⟨hl, hk⟩, hb⟩, trivial⟩
  | cons c rest ih =>
    obtain ⟨k', b'⟩ := c
    simp only [memWfFrom, Bool.and_eq_true, decide_eq_true_eq] at h
    obtain ⟨⟨⟨h1, h2⟩, h3⟩, hrest⟩ := h
    simp only [memInsert]
    split
    · simp only [memWfFrom, Bool.and_eq_true, decide_eq_true_eq]
      exact ⟨⟨⟨hl, hk⟩, hb⟩, ⟨⟨by omega, h2⟩, h3⟩, hrest⟩
    · split
      · rename_i heq
        subst heq
        simp only [memWfFrom, Bool.and_eq_true, decide_eq_true_eq]
        exact ⟨⟨⟨h1, h2⟩, hb⟩, hrest⟩
      · simp only [memWfFrom, Bool.and_eq_true, decide_eq_true_eq]
        exact ⟨⟨⟨h1, h2⟩, h3⟩, ih hrest (by omega)⟩

theorem filter_wfFrom {m : Memory} {lo : Nat} (p : Host.Cell → Bool) (h : memWfFrom font lo m = true) :
    memWfFrom font lo (m.filter p) = true := by
  induction m generalizing lo with
  | nil => rfl
  | cons c rest ih =>
    obtain ⟨k', b'⟩ := c
    simp only [memWfFrom, Bool.and_eq_true, decide_eq_true_eq] at h
    obtain ⟨⟨⟨h1, h2⟩, h3⟩, hrest⟩ := h
    rw [List.filter_cons]
    split
    · simp only [memWfFrom, Bool.and_eq_true, decide_eq_true_eq]
      exact ⟨⟨⟨h1, h2⟩, h3⟩, ih hrest⟩
    · exact memWfFrom_mono (ih hrest) (by omega)

/-- A store keeps the canonical form. -/
theorem memStore_wf {m : Memory} {k : Nat} (b : Byte) (h : Memory.wf font m = true)
    (hk : k < Config.memSize) : Memory.wf font (memStore font m k b) = true := by
  unfold memStore
  split
  · exact filter_wfFrom _ h
  · rename_i hb
    exact memInsert_wfFrom h (Nat.zero_le _) hk hb

/-- MemWrite keeps the canonical form. -/
theorem State.memWrite_wf (s : State) (a : Word) (b : Byte) (h : Memory.wf s.params.font s.mem = true) :
    Memory.wf s.params.font (s.memWrite a b).mem = true := memStore_wf b h (busAddr_lt a)

/-- MemRead after MemWrite (R62). -/
theorem State.memRead_memWrite (s : State) (a c : Word) (b : Byte) :
    (s.memWrite a b).memRead c = if busAddr c = busAddr a then b else s.memRead c :=
  memLookup_memStore _ _ _ _

/-- The load of an image keeps the canonical form. -/
theorem storeBytes_wf (bytes : List Byte) {m : Memory} {k : Nat} (h : Memory.wf font m = true)
    (hk : k + bytes.length ≤ Config.memSize) : Memory.wf font (storeBytes font m k bytes) = true := by
  induction bytes generalizing m k with
  | nil => exact h
  | cons b rest ih =>
    simp only [List.length_cons] at hk
    exact ih (memStore_wf b h (by omega)) (by omega)

/-- Placing bytes keeps the canonical form. -/
theorem State.placeBytes_wf (bytes : List Byte) (s : State) (a : Word)
    (h : Memory.wf s.params.font s.mem = true) : Memory.wf s.params.font (s.placeBytes a bytes).mem = true := by
  induction bytes generalizing s a with
  | nil => exact h
  | cons b rest ih => exact ih (s.memWrite a b) _ (s.memWrite_wf a b h)

/-- Below its first address a canonical memory lists nothing. -/
theorem memLookup_of_lt {m : Memory} {lo k : Nat} (h : memWfFrom font lo m = true) (hk : k < lo) :
    memLookup font m k = resetByte font k := by
  induction m generalizing lo with
  | nil => rfl
  | cons c rest ih =>
    obtain ⟨k', b⟩ := c
    simp only [memWfFrom, Bool.and_eq_true, decide_eq_true_eq] at h
    have hne : k ≠ k' := by omega
    simp only [memLookup, if_neg hne]
    exact ih h.2 (by omega)

/-- Canonical memories that hold the same bytes are the same list. -/
theorem memory_ext {m m' : Memory} {lo : Nat} (h : memWfFrom font lo m = true)
    (h' : memWfFrom font lo m' = true) (he : ∀ k : Nat, memLookup font m k = memLookup font m' k) : m = m' := by
  induction m generalizing lo m' with
  | nil =>
    cases m' with
    | nil => rfl
    | cons c rest =>
      obtain ⟨k, b⟩ := c
      simp only [memWfFrom, Bool.and_eq_true, decide_eq_true_eq] at h'
      have := he k
      simp only [memLookup, if_true] at this
      exact absurd this.symm h'.1.2
  | cons c rest ih =>
    obtain ⟨k, b⟩ := c
    simp only [memWfFrom, Bool.and_eq_true, decide_eq_true_eq] at h
    have hk : memLookup font m' k = b := by rw [← he k]; simp [memLookup]
    cases m' with
    | nil => exact absurd hk.symm h.1.2
    | cons c' rest' =>
      obtain ⟨k', b'⟩ := c'
      simp only [memWfFrom, Bool.and_eq_true, decide_eq_true_eq] at h'
      have hk' : memLookup font ((k, b) :: rest) k' = b' := by rw [he k']; simp [memLookup]
      have hkk : k = k' := by
        rcases Nat.lt_trichotomy k k' with hlt | heq | hgt
        · have hne : k ≠ k' := by omega
          simp only [memLookup, if_neg hne] at hk
          rw [memLookup_of_lt h'.2 (by omega)] at hk
          exact absurd hk.symm h.1.2
        · exact heq
        · have hne : k' ≠ k := by omega
          simp only [memLookup, if_neg hne] at hk'
          rw [memLookup_of_lt h.2 (by omega)] at hk'
          exact absurd hk'.symm h'.1.2
      subst hkk
      have hb : b' = b := by simpa [memLookup] using hk
      subst hb
      refine congrArg _ (ih h.2 h'.2 fun j => ?_)
      by_cases hj : j = k
      · subst hj
        rw [memLookup_of_lt h.2 (by omega), memLookup_of_lt h'.2 (by omega)]
      · have := he j
        simpa only [memLookup, if_neg hj] using this

theorem reset_mem_wf : Memory.wf State.reset.params.font State.reset.mem = true := rfl

end Sys2Proof.Machine
end

