-- ==== Sys2Proof/Laws/State.lean ====
section
/-! SUPPORT. One lemma for each field of State and each update of it, true by rfl, so that no proof
unfolds a record update. -/

namespace Sys2Proof.Machine

/-! ## setStack -/

section
variable (s : State) (e : List Word) (q : Nat)

@[simp] theorem State.setStack_v : (s.setStack e q).v = s.v := rfl
@[simp] theorem State.setStack_i : (s.setStack e q).i = s.i := rfl
@[simp] theorem State.setStack_pc : (s.setStack e q).pc = s.pc := rfl
@[simp] theorem State.setStack_stack : (s.setStack e q).stack = e := rfl
@[simp] theorem State.setStack_sp : (s.setStack e q).sp = q := rfl
@[simp] theorem State.setStack_dt : (s.setStack e q).dt = s.dt := rfl
@[simp] theorem State.setStack_st : (s.setStack e q).st = s.st := rfl
@[simp] theorem State.setStack_keys : (s.setStack e q).keys = s.keys := rfl
@[simp] theorem State.setStack_waitKey : (s.setStack e q).waitKey = s.waitKey := rfl
@[simp] theorem State.setStack_fb : (s.setStack e q).fb = s.fb := rfl
@[simp] theorem State.setStack_mem : (s.setStack e q).mem = s.mem := rfl
@[simp] theorem State.setStack_fault : (s.setStack e q).fault = s.fault := rfl
@[simp] theorem State.setStack_draws : (s.setStack e q).draws = s.draws := rfl
@[simp] theorem State.setStack_batch : (s.setStack e q).batch = s.batch := rfl
@[simp] theorem State.setStack_pending : (s.setStack e q).pending = s.pending := rfl
@[simp] theorem State.setStack_params : (s.setStack e q).params = s.params := rfl

end

/-! ## setReg -/

section
variable (s : State) (x : Reg) (b : Byte)

@[simp] theorem State.setReg_v : (s.setReg x b).v = s.v.set x.toNat b x.isLt := rfl
@[simp] theorem State.setReg_i : (s.setReg x b).i = s.i := rfl
@[simp] theorem State.setReg_pc : (s.setReg x b).pc = s.pc := rfl
@[simp] theorem State.setReg_stack : (s.setReg x b).stack = s.stack := rfl
@[simp] theorem State.setReg_sp : (s.setReg x b).sp = s.sp := rfl
@[simp] theorem State.setReg_dt : (s.setReg x b).dt = s.dt := rfl
@[simp] theorem State.setReg_st : (s.setReg x b).st = s.st := rfl
@[simp] theorem State.setReg_keys : (s.setReg x b).keys = s.keys := rfl
@[simp] theorem State.setReg_waitKey : (s.setReg x b).waitKey = s.waitKey := rfl
@[simp] theorem State.setReg_fb : (s.setReg x b).fb = s.fb := rfl
@[simp] theorem State.setReg_mem : (s.setReg x b).mem = s.mem := rfl
@[simp] theorem State.setReg_fault : (s.setReg x b).fault = s.fault := rfl
@[simp] theorem State.setReg_draws : (s.setReg x b).draws = s.draws := rfl
@[simp] theorem State.setReg_batch : (s.setReg x b).batch = s.batch := rfl
@[simp] theorem State.setReg_pending : (s.setReg x b).pending = s.pending := rfl
@[simp] theorem State.setReg_params : (s.setReg x b).params = s.params := rfl

end

/-! ## setI -/

section
variable (s : State) (a : Word)

@[simp] theorem State.setI_v : (s.setI a).v = s.v := rfl
@[simp] theorem State.setI_i : (s.setI a).i = a := rfl
@[simp] theorem State.setI_pc : (s.setI a).pc = s.pc := rfl
@[simp] theorem State.setI_stack : (s.setI a).stack = s.stack := rfl
@[simp] theorem State.setI_sp : (s.setI a).sp = s.sp := rfl
@[simp] theorem State.setI_dt : (s.setI a).dt = s.dt := rfl
@[simp] theorem State.setI_st : (s.setI a).st = s.st := rfl
@[simp] theorem State.setI_keys : (s.setI a).keys = s.keys := rfl
@[simp] theorem State.setI_waitKey : (s.setI a).waitKey = s.waitKey := rfl
@[simp] theorem State.setI_fb : (s.setI a).fb = s.fb := rfl
@[simp] theorem State.setI_mem : (s.setI a).mem = s.mem := rfl
@[simp] theorem State.setI_fault : (s.setI a).fault = s.fault := rfl
@[simp] theorem State.setI_draws : (s.setI a).draws = s.draws := rfl
@[simp] theorem State.setI_batch : (s.setI a).batch = s.batch := rfl
@[simp] theorem State.setI_pending : (s.setI a).pending = s.pending := rfl
@[simp] theorem State.setI_params : (s.setI a).params = s.params := rfl

end

/-! ## setPc -/

section
variable (s : State) (a : Word)

@[simp] theorem State.setPc_v : (s.setPc a).v = s.v := rfl
@[simp] theorem State.setPc_i : (s.setPc a).i = s.i := rfl
@[simp] theorem State.setPc_pc : (s.setPc a).pc = a := rfl
@[simp] theorem State.setPc_stack : (s.setPc a).stack = s.stack := rfl
@[simp] theorem State.setPc_sp : (s.setPc a).sp = s.sp := rfl
@[simp] theorem State.setPc_dt : (s.setPc a).dt = s.dt := rfl
@[simp] theorem State.setPc_st : (s.setPc a).st = s.st := rfl
@[simp] theorem State.setPc_keys : (s.setPc a).keys = s.keys := rfl
@[simp] theorem State.setPc_waitKey : (s.setPc a).waitKey = s.waitKey := rfl
@[simp] theorem State.setPc_fb : (s.setPc a).fb = s.fb := rfl
@[simp] theorem State.setPc_mem : (s.setPc a).mem = s.mem := rfl
@[simp] theorem State.setPc_fault : (s.setPc a).fault = s.fault := rfl
@[simp] theorem State.setPc_draws : (s.setPc a).draws = s.draws := rfl
@[simp] theorem State.setPc_batch : (s.setPc a).batch = s.batch := rfl
@[simp] theorem State.setPc_pending : (s.setPc a).pending = s.pending := rfl
@[simp] theorem State.setPc_params : (s.setPc a).params = s.params := rfl

end

/-! ## memWrite -/

section
variable (s : State) (a : Word) (b : Byte)

@[simp] theorem State.memWrite_v : (s.memWrite a b).v = s.v := rfl
@[simp] theorem State.memWrite_i : (s.memWrite a b).i = s.i := rfl
@[simp] theorem State.memWrite_pc : (s.memWrite a b).pc = s.pc := rfl
@[simp] theorem State.memWrite_stack : (s.memWrite a b).stack = s.stack := rfl
@[simp] theorem State.memWrite_sp : (s.memWrite a b).sp = s.sp := rfl
@[simp] theorem State.memWrite_dt : (s.memWrite a b).dt = s.dt := rfl
@[simp] theorem State.memWrite_st : (s.memWrite a b).st = s.st := rfl
@[simp] theorem State.memWrite_keys : (s.memWrite a b).keys = s.keys := rfl
@[simp] theorem State.memWrite_waitKey : (s.memWrite a b).waitKey = s.waitKey := rfl
@[simp] theorem State.memWrite_fb : (s.memWrite a b).fb = s.fb := rfl
@[simp] theorem State.memWrite_mem : (s.memWrite a b).mem = memStore s.params.font s.mem (busAddr a) b := rfl
@[simp] theorem State.memWrite_fault : (s.memWrite a b).fault = s.fault := rfl
@[simp] theorem State.memWrite_draws : (s.memWrite a b).draws = s.draws := rfl
@[simp] theorem State.memWrite_batch : (s.memWrite a b).batch = s.batch := rfl
@[simp] theorem State.memWrite_pending : (s.memWrite a b).pending = s.pending := rfl
@[simp] theorem State.memWrite_params : (s.memWrite a b).params = s.params := rfl

end

/-! ## raiseFault -/

section
variable (s : State) (c : FaultCode)

@[simp] theorem State.raiseFault_v : (s.raiseFault c).v = s.v := rfl
@[simp] theorem State.raiseFault_i : (s.raiseFault c).i = s.i := rfl
@[simp] theorem State.raiseFault_pc : (s.raiseFault c).pc = s.pc := rfl
@[simp] theorem State.raiseFault_stack : (s.raiseFault c).stack = s.stack := rfl
@[simp] theorem State.raiseFault_sp : (s.raiseFault c).sp = s.sp := rfl
@[simp] theorem State.raiseFault_dt : (s.raiseFault c).dt = s.dt := rfl
@[simp] theorem State.raiseFault_st : (s.raiseFault c).st = s.st := rfl
@[simp] theorem State.raiseFault_keys : (s.raiseFault c).keys = s.keys := rfl
@[simp] theorem State.raiseFault_waitKey : (s.raiseFault c).waitKey = s.waitKey := rfl
@[simp] theorem State.raiseFault_fb : (s.raiseFault c).fb = s.fb := rfl
@[simp] theorem State.raiseFault_mem : (s.raiseFault c).mem = s.mem := rfl
@[simp] theorem State.raiseFault_fault : (s.raiseFault c).fault = some c := rfl
@[simp] theorem State.raiseFault_draws : (s.raiseFault c).draws = s.draws := rfl
@[simp] theorem State.raiseFault_batch : (s.raiseFault c).batch = s.batch := rfl
@[simp] theorem State.raiseFault_pending : (s.raiseFault c).pending = s.pending := rfl
@[simp] theorem State.raiseFault_params : (s.raiseFault c).params = s.params := rfl

end

/-! ## setDt -/

section
variable (s : State) (b : Byte)

@[simp] theorem State.setDt_v : (s.setDt b).v = s.v := rfl
@[simp] theorem State.setDt_i : (s.setDt b).i = s.i := rfl
@[simp] theorem State.setDt_pc : (s.setDt b).pc = s.pc := rfl
@[simp] theorem State.setDt_stack : (s.setDt b).stack = s.stack := rfl
@[simp] theorem State.setDt_sp : (s.setDt b).sp = s.sp := rfl
@[simp] theorem State.setDt_dt : (s.setDt b).dt = b := rfl
@[simp] theorem State.setDt_st : (s.setDt b).st = s.st := rfl
@[simp] theorem State.setDt_keys : (s.setDt b).keys = s.keys := rfl
@[simp] theorem State.setDt_waitKey : (s.setDt b).waitKey = s.waitKey := rfl
@[simp] theorem State.setDt_fb : (s.setDt b).fb = s.fb := rfl
@[simp] theorem State.setDt_mem : (s.setDt b).mem = s.mem := rfl
@[simp] theorem State.setDt_fault : (s.setDt b).fault = s.fault := rfl
@[simp] theorem State.setDt_draws : (s.setDt b).draws = s.draws := rfl
@[simp] theorem State.setDt_batch : (s.setDt b).batch = s.batch := rfl
@[simp] theorem State.setDt_pending : (s.setDt b).pending = s.pending := rfl
@[simp] theorem State.setDt_params : (s.setDt b).params = s.params := rfl

end

/-! ## setSt -/

section
variable (s : State) (b : Byte)

@[simp] theorem State.setSt_v : (s.setSt b).v = s.v := rfl
@[simp] theorem State.setSt_i : (s.setSt b).i = s.i := rfl
@[simp] theorem State.setSt_pc : (s.setSt b).pc = s.pc := rfl
@[simp] theorem State.setSt_stack : (s.setSt b).stack = s.stack := rfl
@[simp] theorem State.setSt_sp : (s.setSt b).sp = s.sp := rfl
@[simp] theorem State.setSt_dt : (s.setSt b).dt = s.dt := rfl
@[simp] theorem State.setSt_st : (s.setSt b).st = b := rfl
@[simp] theorem State.setSt_keys : (s.setSt b).keys = s.keys := rfl
@[simp] theorem State.setSt_waitKey : (s.setSt b).waitKey = s.waitKey := rfl
@[simp] theorem State.setSt_fb : (s.setSt b).fb = s.fb := rfl
@[simp] theorem State.setSt_mem : (s.setSt b).mem = s.mem := rfl
@[simp] theorem State.setSt_fault : (s.setSt b).fault = s.fault := rfl
@[simp] theorem State.setSt_draws : (s.setSt b).draws = s.draws := rfl
@[simp] theorem State.setSt_batch : (s.setSt b).batch = s.batch := rfl
@[simp] theorem State.setSt_pending : (s.setSt b).pending = s.pending := rfl
@[simp] theorem State.setSt_params : (s.setSt b).params = s.params := rfl

end

/-! ## setKeys -/

section
variable (s : State) (k : BitVec 16)

@[simp] theorem State.setKeys_v : (s.setKeys k).v = s.v := rfl
@[simp] theorem State.setKeys_i : (s.setKeys k).i = s.i := rfl
@[simp] theorem State.setKeys_pc : (s.setKeys k).pc = s.pc := rfl
@[simp] theorem State.setKeys_stack : (s.setKeys k).stack = s.stack := rfl
@[simp] theorem State.setKeys_sp : (s.setKeys k).sp = s.sp := rfl
@[simp] theorem State.setKeys_dt : (s.setKeys k).dt = s.dt := rfl
@[simp] theorem State.setKeys_st : (s.setKeys k).st = s.st := rfl
@[simp] theorem State.setKeys_keys : (s.setKeys k).keys = k := rfl
@[simp] theorem State.setKeys_waitKey : (s.setKeys k).waitKey = s.waitKey := rfl
@[simp] theorem State.setKeys_fb : (s.setKeys k).fb = s.fb := rfl
@[simp] theorem State.setKeys_mem : (s.setKeys k).mem = s.mem := rfl
@[simp] theorem State.setKeys_fault : (s.setKeys k).fault = s.fault := rfl
@[simp] theorem State.setKeys_draws : (s.setKeys k).draws = s.draws := rfl
@[simp] theorem State.setKeys_batch : (s.setKeys k).batch = s.batch := rfl
@[simp] theorem State.setKeys_pending : (s.setKeys k).pending = s.pending := rfl
@[simp] theorem State.setKeys_params : (s.setKeys k).params = s.params := rfl

end

/-! ## setWaitKey -/

section
variable (s : State) (w : Option Key)

@[simp] theorem State.setWaitKey_v : (s.setWaitKey w).v = s.v := rfl
@[simp] theorem State.setWaitKey_i : (s.setWaitKey w).i = s.i := rfl
@[simp] theorem State.setWaitKey_pc : (s.setWaitKey w).pc = s.pc := rfl
@[simp] theorem State.setWaitKey_stack : (s.setWaitKey w).stack = s.stack := rfl
@[simp] theorem State.setWaitKey_sp : (s.setWaitKey w).sp = s.sp := rfl
@[simp] theorem State.setWaitKey_dt : (s.setWaitKey w).dt = s.dt := rfl
@[simp] theorem State.setWaitKey_st : (s.setWaitKey w).st = s.st := rfl
@[simp] theorem State.setWaitKey_keys : (s.setWaitKey w).keys = s.keys := rfl
@[simp] theorem State.setWaitKey_waitKey : (s.setWaitKey w).waitKey = w := rfl
@[simp] theorem State.setWaitKey_fb : (s.setWaitKey w).fb = s.fb := rfl
@[simp] theorem State.setWaitKey_mem : (s.setWaitKey w).mem = s.mem := rfl
@[simp] theorem State.setWaitKey_fault : (s.setWaitKey w).fault = s.fault := rfl
@[simp] theorem State.setWaitKey_draws : (s.setWaitKey w).draws = s.draws := rfl
@[simp] theorem State.setWaitKey_batch : (s.setWaitKey w).batch = s.batch := rfl
@[simp] theorem State.setWaitKey_pending : (s.setWaitKey w).pending = s.pending := rfl
@[simp] theorem State.setWaitKey_params : (s.setWaitKey w).params = s.params := rfl

end

/-! ## setFb -/

section
variable (s : State) (g : Vector Row 32)

@[simp] theorem State.setFb_v : (s.setFb g).v = s.v := rfl
@[simp] theorem State.setFb_i : (s.setFb g).i = s.i := rfl
@[simp] theorem State.setFb_pc : (s.setFb g).pc = s.pc := rfl
@[simp] theorem State.setFb_stack : (s.setFb g).stack = s.stack := rfl
@[simp] theorem State.setFb_sp : (s.setFb g).sp = s.sp := rfl
@[simp] theorem State.setFb_dt : (s.setFb g).dt = s.dt := rfl
@[simp] theorem State.setFb_st : (s.setFb g).st = s.st := rfl
@[simp] theorem State.setFb_keys : (s.setFb g).keys = s.keys := rfl
@[simp] theorem State.setFb_waitKey : (s.setFb g).waitKey = s.waitKey := rfl
@[simp] theorem State.setFb_fb : (s.setFb g).fb = g := rfl
@[simp] theorem State.setFb_mem : (s.setFb g).mem = s.mem := rfl
@[simp] theorem State.setFb_fault : (s.setFb g).fault = s.fault := rfl
@[simp] theorem State.setFb_draws : (s.setFb g).draws = s.draws := rfl
@[simp] theorem State.setFb_batch : (s.setFb g).batch = s.batch := rfl
@[simp] theorem State.setFb_pending : (s.setFb g).pending = s.pending := rfl
@[simp] theorem State.setFb_params : (s.setFb g).params = s.params := rfl

end

/-! ## setFault -/

section
variable (s : State) (c : Option FaultCode)

@[simp] theorem State.setFault_v : (s.setFault c).v = s.v := rfl
@[simp] theorem State.setFault_i : (s.setFault c).i = s.i := rfl
@[simp] theorem State.setFault_pc : (s.setFault c).pc = s.pc := rfl
@[simp] theorem State.setFault_stack : (s.setFault c).stack = s.stack := rfl
@[simp] theorem State.setFault_sp : (s.setFault c).sp = s.sp := rfl
@[simp] theorem State.setFault_dt : (s.setFault c).dt = s.dt := rfl
@[simp] theorem State.setFault_st : (s.setFault c).st = s.st := rfl
@[simp] theorem State.setFault_keys : (s.setFault c).keys = s.keys := rfl
@[simp] theorem State.setFault_waitKey : (s.setFault c).waitKey = s.waitKey := rfl
@[simp] theorem State.setFault_fb : (s.setFault c).fb = s.fb := rfl
@[simp] theorem State.setFault_mem : (s.setFault c).mem = s.mem := rfl
@[simp] theorem State.setFault_fault : (s.setFault c).fault = c := rfl
@[simp] theorem State.setFault_draws : (s.setFault c).draws = s.draws := rfl
@[simp] theorem State.setFault_batch : (s.setFault c).batch = s.batch := rfl
@[simp] theorem State.setFault_pending : (s.setFault c).pending = s.pending := rfl
@[simp] theorem State.setFault_params : (s.setFault c).params = s.params := rfl

end

/-! ## setDraws -/

section
variable (s : State) (n : Nat)

@[simp] theorem State.setDraws_v : (s.setDraws n).v = s.v := rfl
@[simp] theorem State.setDraws_i : (s.setDraws n).i = s.i := rfl
@[simp] theorem State.setDraws_pc : (s.setDraws n).pc = s.pc := rfl
@[simp] theorem State.setDraws_stack : (s.setDraws n).stack = s.stack := rfl
@[simp] theorem State.setDraws_sp : (s.setDraws n).sp = s.sp := rfl
@[simp] theorem State.setDraws_dt : (s.setDraws n).dt = s.dt := rfl
@[simp] theorem State.setDraws_st : (s.setDraws n).st = s.st := rfl
@[simp] theorem State.setDraws_keys : (s.setDraws n).keys = s.keys := rfl
@[simp] theorem State.setDraws_waitKey : (s.setDraws n).waitKey = s.waitKey := rfl
@[simp] theorem State.setDraws_fb : (s.setDraws n).fb = s.fb := rfl
@[simp] theorem State.setDraws_mem : (s.setDraws n).mem = s.mem := rfl
@[simp] theorem State.setDraws_fault : (s.setDraws n).fault = s.fault := rfl
@[simp] theorem State.setDraws_draws : (s.setDraws n).draws = n := rfl
@[simp] theorem State.setDraws_batch : (s.setDraws n).batch = s.batch := rfl
@[simp] theorem State.setDraws_pending : (s.setDraws n).pending = s.pending := rfl
@[simp] theorem State.setDraws_params : (s.setDraws n).params = s.params := rfl

end

/-! ## setBatch -/

section
variable (s : State) (b : Option Nat)

@[simp] theorem State.setBatch_v : (s.setBatch b).v = s.v := rfl
@[simp] theorem State.setBatch_i : (s.setBatch b).i = s.i := rfl
@[simp] theorem State.setBatch_pc : (s.setBatch b).pc = s.pc := rfl
@[simp] theorem State.setBatch_stack : (s.setBatch b).stack = s.stack := rfl
@[simp] theorem State.setBatch_sp : (s.setBatch b).sp = s.sp := rfl
@[simp] theorem State.setBatch_dt : (s.setBatch b).dt = s.dt := rfl
@[simp] theorem State.setBatch_st : (s.setBatch b).st = s.st := rfl
@[simp] theorem State.setBatch_keys : (s.setBatch b).keys = s.keys := rfl
@[simp] theorem State.setBatch_waitKey : (s.setBatch b).waitKey = s.waitKey := rfl
@[simp] theorem State.setBatch_fb : (s.setBatch b).fb = s.fb := rfl
@[simp] theorem State.setBatch_mem : (s.setBatch b).mem = s.mem := rfl
@[simp] theorem State.setBatch_fault : (s.setBatch b).fault = s.fault := rfl
@[simp] theorem State.setBatch_draws : (s.setBatch b).draws = s.draws := rfl
@[simp] theorem State.setBatch_batch : (s.setBatch b).batch = b := rfl
@[simp] theorem State.setBatch_pending : (s.setBatch b).pending = s.pending := rfl
@[simp] theorem State.setBatch_params : (s.setBatch b).params = s.params := rfl

end

/-! ## setPending -/

section
variable (s : State) (l : List Command)

@[simp] theorem State.setPending_v : (s.setPending l).v = s.v := rfl
@[simp] theorem State.setPending_i : (s.setPending l).i = s.i := rfl
@[simp] theorem State.setPending_pc : (s.setPending l).pc = s.pc := rfl
@[simp] theorem State.setPending_stack : (s.setPending l).stack = s.stack := rfl
@[simp] theorem State.setPending_sp : (s.setPending l).sp = s.sp := rfl
@[simp] theorem State.setPending_dt : (s.setPending l).dt = s.dt := rfl
@[simp] theorem State.setPending_st : (s.setPending l).st = s.st := rfl
@[simp] theorem State.setPending_keys : (s.setPending l).keys = s.keys := rfl
@[simp] theorem State.setPending_waitKey : (s.setPending l).waitKey = s.waitKey := rfl
@[simp] theorem State.setPending_fb : (s.setPending l).fb = s.fb := rfl
@[simp] theorem State.setPending_mem : (s.setPending l).mem = s.mem := rfl
@[simp] theorem State.setPending_fault : (s.setPending l).fault = s.fault := rfl
@[simp] theorem State.setPending_draws : (s.setPending l).draws = s.draws := rfl
@[simp] theorem State.setPending_batch : (s.setPending l).batch = s.batch := rfl
@[simp] theorem State.setPending_pending : (s.setPending l).pending = l := rfl
@[simp] theorem State.setPending_params : (s.setPending l).params = s.params := rfl

end

/-! ## timerTick -/

section
variable (s : State)

@[simp] theorem State.timerTick_v : s.timerTick.v = s.v := rfl
@[simp] theorem State.timerTick_i : s.timerTick.i = s.i := rfl
@[simp] theorem State.timerTick_pc : s.timerTick.pc = s.pc := rfl
@[simp] theorem State.timerTick_stack : s.timerTick.stack = s.stack := rfl
@[simp] theorem State.timerTick_sp : s.timerTick.sp = s.sp := rfl
@[simp] theorem State.timerTick_dt : s.timerTick.dt = tickByte s.dt := rfl
@[simp] theorem State.timerTick_st : s.timerTick.st = tickByte s.st := rfl
@[simp] theorem State.timerTick_keys : s.timerTick.keys = s.keys := rfl
@[simp] theorem State.timerTick_waitKey : s.timerTick.waitKey = s.waitKey := rfl
@[simp] theorem State.timerTick_fb : s.timerTick.fb = s.fb := rfl
@[simp] theorem State.timerTick_mem : s.timerTick.mem = s.mem := rfl
@[simp] theorem State.timerTick_fault : s.timerTick.fault = s.fault := rfl
@[simp] theorem State.timerTick_draws : s.timerTick.draws = s.draws := rfl
@[simp] theorem State.timerTick_batch : s.timerTick.batch = s.batch := rfl
@[simp] theorem State.timerTick_pending : s.timerTick.pending = s.pending := rfl
@[simp] theorem State.timerTick_params : s.timerTick.params = s.params := rfl

end

/-! ## advance -/

section
variable (s : State)

@[simp] theorem State.advance_v : s.advance.v = s.v := rfl
@[simp] theorem State.advance_i : s.advance.i = s.i := rfl
@[simp] theorem State.advance_pc : s.advance.pc = s.pc + 2#16 := rfl
@[simp] theorem State.advance_stack : s.advance.stack = s.stack := rfl
@[simp] theorem State.advance_sp : s.advance.sp = s.sp := rfl
@[simp] theorem State.advance_dt : s.advance.dt = s.dt := rfl
@[simp] theorem State.advance_st : s.advance.st = s.st := rfl
@[simp] theorem State.advance_keys : s.advance.keys = s.keys := rfl
@[simp] theorem State.advance_waitKey : s.advance.waitKey = s.waitKey := rfl
@[simp] theorem State.advance_fb : s.advance.fb = s.fb := rfl
@[simp] theorem State.advance_mem : s.advance.mem = s.mem := rfl
@[simp] theorem State.advance_fault : s.advance.fault = s.fault := rfl
@[simp] theorem State.advance_draws : s.advance.draws = s.draws := rfl
@[simp] theorem State.advance_batch : s.advance.batch = s.batch := rfl
@[simp] theorem State.advance_pending : s.advance.pending = s.pending := rfl
@[simp] theorem State.advance_params : s.advance.params = s.params := rfl

end

/-! ## rewind -/

section
variable (s : State)

@[simp] theorem State.rewind_v : s.rewind.v = s.v := rfl
@[simp] theorem State.rewind_i : s.rewind.i = s.i := rfl
@[simp] theorem State.rewind_pc : s.rewind.pc = s.pc - 2#16 := rfl
@[simp] theorem State.rewind_stack : s.rewind.stack = s.stack := rfl
@[simp] theorem State.rewind_sp : s.rewind.sp = s.sp := rfl
@[simp] theorem State.rewind_dt : s.rewind.dt = s.dt := rfl
@[simp] theorem State.rewind_st : s.rewind.st = s.st := rfl
@[simp] theorem State.rewind_keys : s.rewind.keys = s.keys := rfl
@[simp] theorem State.rewind_waitKey : s.rewind.waitKey = s.waitKey := rfl
@[simp] theorem State.rewind_fb : s.rewind.fb = s.fb := rfl
@[simp] theorem State.rewind_mem : s.rewind.mem = s.mem := rfl
@[simp] theorem State.rewind_fault : s.rewind.fault = s.fault := rfl
@[simp] theorem State.rewind_draws : s.rewind.draws = s.draws := rfl
@[simp] theorem State.rewind_batch : s.rewind.batch = s.batch := rfl
@[simp] theorem State.rewind_pending : s.rewind.pending = s.pending := rfl
@[simp] theorem State.rewind_params : s.rewind.params = s.params := rfl

end

end Sys2Proof.Machine
end

