-- ==== Sys2Proof/Laws/Ops.lean ====
section
/-! SUPPORT. One lemma for each shared operation over registers, PC, stack and placed bytes: what it
does, and what it leaves alone. -/

namespace Sys2Proof.Machine

/-! ## Reads see only their own part of the state -/

theorem State.reg_congr {s t : State} (h : t.v = s.v) (x : Reg) : t.reg x = s.reg x := by
  simp only [State.reg, h]

theorem State.memRead_congr {s t : State} (h : t.mem = s.mem) (hp : t.params = s.params) (a : Word) :
    t.memRead a = s.memRead a := by
  simp only [State.memRead, h, hp]

@[simp] theorem State.reg_setI (s : State) (a : Word) (x : Reg) : (s.setI a).reg x = s.reg x := rfl
@[simp] theorem State.reg_setPc (s : State) (a : Word) (x : Reg) : (s.setPc a).reg x = s.reg x := rfl
@[simp] theorem State.reg_memWrite (s : State) (a : Word) (b : Byte) (x : Reg) :
    (s.memWrite a b).reg x = s.reg x := rfl
@[simp] theorem State.reg_advance (s : State) (x : Reg) : s.advance.reg x = s.reg x := rfl
@[simp] theorem State.reg_rewind (s : State) (x : Reg) : s.rewind.reg x = s.reg x := rfl
@[simp] theorem State.memRead_setReg (s : State) (x : Reg) (b : Byte) (a : Word) :
    (s.setReg x b).memRead a = s.memRead a := rfl
@[simp] theorem State.memRead_setI (s : State) (a c : Word) : (s.setI a).memRead c = s.memRead c := rfl
@[simp] theorem State.memRead_setPc (s : State) (a c : Word) : (s.setPc a).memRead c = s.memRead c := rfl
@[simp] theorem State.memRead_advance (s : State) (a : Word) : s.advance.memRead a = s.memRead a := rfl
@[simp] theorem State.memRead_rewind (s : State) (a : Word) : s.rewind.memRead a = s.memRead a := rfl

/-! ## Registers -/

/-- A register read after a register write (R20). -/
theorem State.reg_setReg (s : State) (x y : Reg) (b : Byte) :
    (s.setReg x b).reg y = if y = x then b else s.reg y := by
  simp only [State.reg, State.setReg, Vector.getElem_set]
  by_cases h : y = x
  · simp [h]
  · have : x.toNat ≠ y.toNat := fun e => h (BitVec.eq_of_toNat_eq e.symm)
    simp [h, this]

@[simp] theorem State.reg_setReg_same (s : State) (x : Reg) (b : Byte) : (s.setReg x b).reg x = b := by
  simp [State.reg_setReg]

theorem State.reg_setReg_ne (s : State) {x y : Reg} (b : Byte) (h : y ≠ x) :
    (s.setReg x b).reg y = s.reg y := by
  simp [State.reg_setReg, h]

/-- A register read after a result and flag write: the flag wins at VF (R161, R21). -/
theorem State.reg_setRegFlag (s : State) (x y : Reg) (r f : Byte) :
    (s.setRegFlag x r f).reg y = if y = vf then f else if y = x then r else s.reg y := by
  simp [State.setRegFlag, State.reg_setReg]

/-- A flag is 0 or 1 (R21). -/
theorem flagByte_toNat (c : Bool) : (flagByte c).toNat = if c then 1 else 0 := by cases c <;> rfl

/-! ## The program counter -/

/-- To skip or not (R144). -/
@[simp] theorem State.skipIf_pc (s : State) (c : Bool) :
    (s.skipIf c).pc = if c then s.pc + 2#16 else s.pc := by
  cases c <;> rfl

/-- A skip changes PC alone. -/
theorem State.skipIf_eq (s : State) (c : Bool) : s.skipIf c = s.setPc (s.skipIf c).pc := by
  cases c <;> rfl

/-! ## The stack -/

/-- An entry of the stack read after a stack write. -/
@[simp] theorem State.entry_setStack (s : State) (e : List Word) (q k : Nat) :
    (s.setStack e q).entry k = e.getD k 0#16 := rfl
@[simp] theorem State.entry_setPc (s : State) (a : Word) (k : Nat) : (s.setPc a).entry k = s.entry k := rfl

/-- An entry other than the one written is kept. -/
theorem State.getD_set_ne (s : State) (a : Word) {j k : Nat} (h : k ≠ j) :
    (s.stack.set j a).getD k 0#16 = s.entry k := by
  simp only [State.entry, List.getD_eq_getElem?_getD, List.getElem?_set_ne h.symm]

/-- The entry written is read back, where the array has it. -/
theorem State.getD_set_same (s : State) (a : Word) {j : Nat} (h : j < s.stack.length) :
    (s.stack.set j a).getD j 0#16 = a := by
  simp [List.getD_eq_getElem?_getD, h]

/-- Everything a push can do (R142). -/
theorem State.push_spec {s t : State} {a : Word} (h : s.push a = some t) :
    s.sp ≠ s.params.stackDepth ∧ t = s.setStack (s.stack.set s.sp a) (s.sp + 1) := by
  unfold State.push at h
  split at h
  · cases h
  · rename_i hne
    exact ⟨hne, by simpa using h.symm⟩

theorem State.push_full {s : State} {a : Word} (h : s.sp = s.params.stackDepth) :
    s.push a = none := by
  simp [State.push, h]

theorem State.push_room {s : State} {a : Word} (h : s.sp ≠ s.params.stackDepth) :
    s.push a = some (s.setStack (s.stack.set s.sp a) (s.sp + 1)) := by
  simp [State.push, h]

/-- Everything a pop can do (R140). -/
theorem State.pop_spec {s t : State} {a : Word} (h : s.pop = some (a, t)) :
    s.sp ≠ 0 ∧ a = s.entry (s.sp - 1) ∧ t = s.setStack s.stack (s.sp - 1) := by
  unfold State.pop at h
  split at h
  · cases h
  · rename_i hne
    simp only [Option.some.injEq, Prod.mk.injEq] at h
    exact ⟨hne, h.1.symm, h.2.symm⟩

theorem State.pop_empty {s : State} (h : s.sp = 0) : s.pop = none := by
  simp [State.pop, h]

theorem State.pop_used {s : State} (h : s.sp ≠ 0) :
    s.pop = some (s.entry (s.sp - 1), s.setStack s.stack (s.sp - 1)) := by
  simp [State.pop, h]

/-! ## Placed bytes -/

/-- Placing bytes changes memory alone. -/
theorem State.placeBytes_eq (bytes : List Byte) (s : State) (a : Word) :
    s.placeBytes a bytes = { s with mem := (s.placeBytes a bytes).mem } := by
  induction bytes generalizing s a with
  | nil => rfl
  | cons b rest ih =>
    rw [State.placeBytes, ih]
    simp only [State.memWrite]

/-- An address that none of the placed bytes lands on reads as before. -/
theorem State.memRead_placeBytes_ne (bytes : List Byte) (s : State) (a c : Word)
    (h : ∀ k < bytes.length, busAddr c ≠ busAddr (a + BitVec.ofNat 16 k)) :
    (s.placeBytes a bytes).memRead c = s.memRead c := by
  induction bytes generalizing s a with
  | nil => rfl
  | cons b rest ih =>
    rw [State.placeBytes, ih, State.memRead_memWrite, if_neg]
    · simpa using h 0 (by simp)
    · intro k hk
      have := h (k + 1) (by simpa using hk)
      rwa [Nat.add_comm k 1, BitVec.ofNat_add, ← BitVec.add_assoc] at this

/-- Bus addresses at different distances below 4096 from one base differ. -/
theorem busAddr_add_ne (a : Word) {j k : Nat} (hj : j < 4096) (hk : k < 4096) (h : j ≠ k) :
    busAddr (a + BitVec.ofNat 16 j) ≠ busAddr (a + BitVec.ofNat 16 k) := by
  simp only [busAddr, Config.memSize, BitVec.toNat_add, BitVec.toNat_ofNat]
  omega

/-- Byte `k` of the placed bytes is read back at its address. -/
theorem State.memRead_placeBytes (bytes : List Byte) (s : State) (a : Word) (k : Nat)
    (hk : k < bytes.length) (hl : bytes.length ≤ 4096) :
    (s.placeBytes a bytes).memRead (a + BitVec.ofNat 16 k) = bytes[k] := by
  induction bytes generalizing s a k with
  | nil => simp at hk
  | cons b rest ih =>
    simp only [List.length_cons] at hk hl
    rw [State.placeBytes]
    cases k with
    | zero =>
      rw [State.memRead_placeBytes_ne]
      · simp [State.memRead_memWrite]
      · intro j hj
        have := busAddr_add_ne a (j := 0) (k := j + 1) (by omega) (by omega) (by omega)
        rwa [Nat.add_comm j 1, BitVec.ofNat_add, ← BitVec.add_assoc] at this
    | succ k =>
      have := ih (s.memWrite a b) (a + 1#16) k (by omega) (by omega)
      rw [BitVec.add_assoc, ← BitVec.ofNat_add, Nat.add_comm 1 k] at this
      simpa using this

/-- The two bytes of a word, the high one first, make the word (R121). -/
theorem wordBytes_append (op : Word) :
    (op.extractLsb' 8 8 ++ op.extractLsb' 0 8 : Word) = op := by
  apply BitVec.eq_of_toNat_eq
  have := op.isLt
  rw [BitVec.toNat_append, ← Nat.shiftLeft_add_eq_or_of_lt (BitVec.isLt _), Nat.shiftLeft_eq]
  simp only [BitVec.extractLsb'_toNat, Nat.shiftRight_eq_div_pow]
  omega

/-- A word placed for the next cycle is what that cycle fetches. -/
theorem fetchWord_placeWord (s : State) (op : Word) : (s.placeWord op).fetchWord = op := by
  have h0 := State.memRead_placeBytes (wordBytes op) s s.pc 0 (by simp [wordBytes])
    (by simp [wordBytes])
  have h1 := State.memRead_placeBytes (wordBytes op) s s.pc 1 (by simp [wordBytes])
    (by simp [wordBytes])
  rw [BitVec.add_zero] at h0
  have e (a : Word) : (s.placeWord op).memRead a = (s.placeBytes s.pc (wordBytes op)).memRead a := rfl
  have epc : (s.placeWord op).pc = s.pc := by
    rw [State.placeWord, State.setPending_pc, State.setBatch_pc, State.setFault_pc,
      State.placeBytes_eq]
  rw [State.fetchWord, epc, e, e, h0, h1]
  exact wordBytes_append op

end Sys2Proof.Machine
end

