-- ==== Sys2Proof/Laws/Display.lean ====
section
/-! SUPPORT. What the display engine does, pixel by pixel (spec/44_display.md R211 to R213, R215). -/

namespace Sys2Proof.Machine

/-- Bit 63 − c of the mask: the sprite bit that lands on column `c`, if any (R213). -/
theorem spriteMask_bit (x : BitVec 6) (b : Byte) (c : Nat) (hc : c < 64) :
    (spriteMask x b).getLsbD (63 - c) =
      (decide (x.toNat ≤ c ∧ c < x.toNat + 8) && b.getLsbD (7 - (c - x.toNat))) := by
  have hx := x.isLt
  unfold spriteMask
  split
  · rename_i h
    simp only [BitVec.getLsbD_shiftLeft, BitVec.getLsbD_setWidth]
    by_cases h1 : x.toNat ≤ c ∧ c < x.toNat + 8
    · have e : 63 - c - (56 - x.toNat) = 7 - (c - x.toNat) := by omega
      have e1 : 63 - c < 64 := by omega
      have e2 : ¬ 63 - c < 56 - x.toNat := by omega
      have e3 : 7 - (c - x.toNat) < 64 := by omega
      simp only [h1, e, e1, e2, e3, decide_true, decide_false, Bool.not_false, Bool.true_and, and_self]
    · by_cases h2 : 63 - c < 56 - x.toNat
      · simp [h1, h2]
      · have : 8 ≤ 63 - c - (56 - x.toNat) := by omega
        simp [h1, BitVec.getLsbD_of_ge _ _ this]
  · rename_i h
    simp only [BitVec.getLsbD_ushiftRight, BitVec.getLsbD_setWidth]
    by_cases h1 : x.toNat ≤ c ∧ c < x.toNat + 8
    · have e : x.toNat - 56 + (63 - c) = 7 - (c - x.toNat) := by omega
      have e3 : 7 - (c - x.toNat) < 64 := by omega
      simp only [h1, e, e3, decide_true, Bool.true_and, and_self]
    · have : 8 ≤ x.toNat - 56 + (63 - c) := by omega
      simp [h1, BitVec.getLsbD_of_ge _ _ this]

/-- A row drawn at 32 or below changes nothing and reports nothing (R212). -/
theorem drawSpriteRow_off (fb : FrameBuffer) (x : BitVec 6) {y : Nat} (b : Byte) (h : 32 ≤ y) :
    drawSpriteRow fb x y b = (fb, false) := by
  simp [drawSpriteRow, Nat.not_lt.mpr h]

/-- The row drawn is XORed with the mask, every other row is kept (R211). -/
theorem drawSpriteRow_row (fb : FrameBuffer) (x : BitVec 6) (y : Nat) (b : Byte) (k : Nat)
    (hk : k < 32) :
    (drawSpriteRow fb x y b).1[k] = if k = y then fb[k] ^^^ spriteMask x b else fb[k] := by
  unfold drawSpriteRow
  split
  · by_cases h : k = y
    · subst h; simp
    · simp [Ne.symm h, h]
  · have : k ≠ y := by omega
    simp [this]

/-- The collision bit of a row on the screen (R211). -/
theorem drawSpriteRow_hit (fb : FrameBuffer) (x : BitVec 6) (y : Nat) (b : Byte) (hy : y < 32) :
    (drawSpriteRow fb x y b).2 = (fb[y] &&& spriteMask x b != 0#64) := by
  simp [drawSpriteRow, hy]

/-- The rows the loop of DXYN leaves: sprite row `k − y` XORed into row `k` where it is one of the
rows drawn, every other row kept. -/
theorem drawRows_row (s : State) (x : BitVec 6) (y r left : Nat) (fb : FrameBuffer) (hit : Bool)
    (k : Nat) (hk : k < 32) :
    (drawRows s x y r left fb hit).1[k] =
      if y + r ≤ k ∧ k < y + r + left then
        fb[k] ^^^ spriteMask x (s.memRead (indirect s (k - y)))
      else fb[k] := by
  induction left generalizing r fb hit with
  | zero =>
    have : ¬ (y + r ≤ k ∧ k < y + r + 0) := by omega
    simp only [drawRows, if_neg this]
  | succ left ih =>
    rw [drawRows, ih, drawSpriteRow_row]
    by_cases h1 : k = y + r
    · have h2 : ¬ (y + (r + 1) ≤ k ∧ k < y + (r + 1) + left) := by omega
      have h3 : y + r ≤ k ∧ k < y + r + (left + 1) := by omega
      have h4 : k - y = r := by omega
      rw [if_neg h2, if_pos h1, if_pos h3, h4]
    · have h2 : (y + (r + 1) ≤ k ∧ k < y + (r + 1) + left) ↔ (y + r ≤ k ∧ k < y + r + (left + 1)) := by
        omega
      simp only [if_neg h1, h2]

/-- The loop of DXYN reports a collision when one of its rows on the screen meets its mask. -/
theorem drawRows_hit (s : State) (x : BitVec 6) (y r left : Nat) (fb : FrameBuffer) (hit : Bool) :
    (drawRows s x y r left fb hit).2 = true ↔
      hit = true ∨ ∃ (k : Nat) (hk : k < 32), y + r ≤ k ∧ k < y + r + left ∧
        fb[k] &&& spriteMask x (s.memRead (indirect s (k - y))) ≠ 0#64 := by
  induction left generalizing r fb hit with
  | zero =>
    simp only [drawRows]
    constructor
    · exact Or.inl
    · rintro (h | ⟨k, hk, h1, h2, -⟩)
      · exact h
      · omega
  | succ left ih =>
    rw [drawRows, ih, Bool.or_eq_true]
    constructor
    · rintro ((h | h) | ⟨k, hk, h1, h2, h3⟩)
      · exact .inl h
      · refine .inr ?_
        by_cases hy : y + r < 32
        · refine ⟨y + r, hy, by omega, by omega, ?_⟩
          rw [drawSpriteRow_hit _ _ _ _ hy] at h
          simpa using h
        · rw [drawSpriteRow_off _ _ _ (by omega)] at h
          cases h
      · refine .inr ⟨k, hk, by omega, by omega, ?_⟩
        rwa [drawSpriteRow_row, if_neg (by omega)] at h3
    · rintro (h | ⟨k, hk, h1, h2, h3⟩)
      · exact .inl (.inl h)
      · by_cases he : k = y + r
        · subst he
          refine .inl (.inr ?_)
          rw [drawSpriteRow_hit _ _ _ _ hk]
          simpa using h3
        · refine .inr ⟨k, hk, by omega, by omega, ?_⟩
          rwa [drawSpriteRow_row, if_neg he]

end Sys2Proof.Machine
end

