-- ==== Sys2Proof/Laws/Loops.lean ====
section
/-! SUPPORT. What the loops of FX55 and FX65 do (spec/43_index_memory.md R196, R197). -/

namespace Sys2Proof.Machine

theorem regsUpTo_length (x : Reg) : (regsUpTo x).length = x.toNat + 1 := by simp [regsUpTo]

theorem regsUpTo_getElem (x : Reg) (k : Nat) (h : k < (regsUpTo x).length) :
    (regsUpTo x)[k] = BitVec.ofNat 4 k := by simp [regsUpTo]

/-- FX55's loop is: the registers' bytes placed from I on, and I past them. -/
theorem storeLoop_eq (rs : List Reg) (s : State) :
    storeLoop rs s = (s.placeBytes s.i (rs.map s.reg)).setI (s.i + BitVec.ofNat 16 rs.length) := by
  induction rs generalizing s with
  | nil => simp [storeLoop, State.placeBytes, State.setI]
  | cons r rest ih =>
    have hcomm (bytes : List Byte) (t : State) (a c : Word) :
        (t.setI c).placeBytes a bytes = (t.placeBytes a bytes).setI c := by
      induction bytes generalizing t a with
      | nil => rfl
      | cons b bs ihb =>
        simp only [State.placeBytes]
        rw [← ihb]
        rfl
    rw [storeLoop, ih]
    simp only [State.setI_i, List.map_cons, List.length_cons, State.placeBytes]
    rw [hcomm]
    simp only [State.setI, BitVec.add_assoc, ← BitVec.ofNat_add, Nat.add_comm 1 rest.length]
    rfl

/-- FX65's loop leaves memory alone and moves I past the bytes read. -/
theorem loadLoop_i (rs : List Reg) (s : State) :
    (loadLoop rs s).i = s.i + BitVec.ofNat 16 rs.length := by
  induction rs generalizing s with
  | nil => simp [loadLoop]
  | cons r rest ih =>
    rw [loadLoop, ih]
    simp only [State.setI_i, List.length_cons, BitVec.add_assoc, ← BitVec.ofNat_add,
      Nat.add_comm 1 rest.length]

/-- FX65's loop changes registers and I alone. -/
theorem loadLoop_eq (rs : List Reg) (s : State) :
    loadLoop rs s = { s with v := (loadLoop rs s).v, i := (loadLoop rs s).i } := by
  induction rs generalizing s with
  | nil => rfl
  | cons r rest ih =>
    rw [loadLoop, ih]
    simp only [State.setReg, State.setI]

/-- A register the loop does not name is kept. -/
theorem loadLoop_reg_ne (rs : List Reg) (s : State) (y : Reg) (h : y ∉ rs) :
    (loadLoop rs s).reg y = s.reg y := by
  induction rs generalizing s with
  | nil => rfl
  | cons r rest ih =>
    simp only [List.mem_cons, not_or] at h
    rw [loadLoop, ih _ h.2, State.reg_setI, State.reg_setReg_ne _ _ h.1]

/-- The k-th register of a list without repeats holds the byte at I + k. -/
theorem loadLoop_reg (rs : List Reg) (s : State) (hn : rs.Nodup) (k : Nat) (hk : k < rs.length) :
    (loadLoop rs s).reg rs[k] = s.memRead (s.i + BitVec.ofNat 16 k) := by
  induction rs generalizing s k with
  | nil => simp at hk
  | cons r rest ih =>
    simp only [List.nodup_cons] at hn
    rw [loadLoop]
    cases k with
    | zero =>
      simp only [List.getElem_cons_zero]
      rw [loadLoop_reg_ne _ _ _ hn.1]
      simp
    | succ k =>
      simp only [List.length_cons] at hk
      simp only [List.getElem_cons_succ]
      rw [ih _ hn.2 k (by omega)]
      simp only [State.setI_i, State.memRead_setI, State.memRead_setReg, BitVec.add_assoc,
        ← BitVec.ofNat_add, Nat.add_comm 1 k]

theorem regsUpTo_nodup (x : Reg) : (regsUpTo x).Nodup := by
  revert x
  decide

theorem mem_regsUpTo (x y : Reg) : y ∈ regsUpTo x ↔ y.toNat ≤ x.toNat := by
  revert x y
  decide

end Sys2Proof.Machine
end

