-- ==== Sys2Proof/Laws/Frames.lean ====
section
/-! SUPPORT. The frame of each shared update, and that no instruction sees the host's side of
the model, its batch counter and its list (log 7). -/

namespace Sys2Proof.Machine

section
variable (s : State)

/-! ## What each update leaves alone -/

theorem writesReg_setReg (x : Reg) (b : Byte) : WritesReg x b s (s.setReg x b) :=
  ⟨State.reg_setReg_same s x b, fun _ h => State.reg_setReg_ne s b h, fun p hp => by
    cases p <;> first | exact absurd (.head _) hp | rfl | (intro; rfl)⟩

theorem writesRegFlag_setRegFlag (x : Reg) (r f : Byte) : WritesRegFlag x r f s (s.setRegFlag x r f) :=
  ⟨by simp [State.reg_setRegFlag], fun h => by simp [State.reg_setRegFlag, h],
    fun y h h' => by simp [State.reg_setRegFlag, h, h'], fun p hp => by
      cases p <;> first | exact absurd (.head _) hp | rfl | (intro; rfl)⟩

theorem writesPc_setPc (a : Word) : WritesPc a s (s.setPc a) :=
  ⟨rfl, fun p hp => by cases p <;> first | exact absurd (.head _) hp | rfl | (intro; rfl)⟩

theorem writesPc_skipIf (c : Bool) : WritesPc (if c then s.pc + 2#16 else s.pc) s (s.skipIf c) :=
  ⟨State.skipIf_pc s c, fun p hp => by
    cases c <;> cases p <;> first | exact absurd (.head _) hp | rfl | (intro; rfl)⟩

theorem writesI_setI (a : Word) : WritesI a s (s.setI a) :=
  ⟨rfl, fun p hp => by cases p <;> first | exact absurd (.head _) hp | rfl | (intro; rfl)⟩

theorem entersFault_raiseFault (c : FaultCode) : EntersFault c s (s.raiseFault c) :=
  ⟨rfl, fun p hp => by cases p <;> first | exact absurd (.head _) hp | rfl | (intro; rfl)⟩

/-! ## The host's side is invisible to instructions -/

variable (b : Option Nat) (l : List Command)

theorem skipIf_host (c : Bool) :
    ((s.setBatch b).setPending l).skipIf c = ((s.skipIf c).setBatch b).setPending l := by
  cases c <;> rfl

theorem placeBytes_host (bytes : List Byte) (a : Word) :
    ((s.setBatch b).setPending l).placeBytes a bytes =
      ((s.placeBytes a bytes).setBatch b).setPending l := by
  induction bytes generalizing s a with
  | nil => rfl
  | cons c rest ih => exact ih (s.memWrite a c) (a + 1#16)

theorem storeLoop_host (rs : List Reg) :
    storeLoop rs ((s.setBatch b).setPending l) =
      ((storeLoop rs s).setBatch b).setPending l := by
  induction rs generalizing s with
  | nil => rfl
  | cons r rest ih => exact ih ((s.memWrite s.i (s.reg r)).setI (s.i + 1#16))

theorem loadLoop_host (rs : List Reg) :
    loadLoop rs ((s.setBatch b).setPending l) =
      ((loadLoop rs s).setBatch b).setPending l := by
  induction rs generalizing s with
  | nil => rfl
  | cons r rest ih => exact ih ((s.setReg r (s.memRead s.i)).setI (s.i + 1#16))

/-- DXYN's loop reads only I and memory. -/
theorem drawRows_congr {s s' : State} (hi : s'.i = s.i)
    (hm : ∀ a : Word, s'.memRead a = s.memRead a) (x : BitVec 6) (y r left : Nat) (fb : FrameBuffer) (hit : Bool) :
    drawRows s' x y r left fb hit = drawRows s x y r left fb hit := by
  induction left generalizing r fb hit with
  | zero => rfl
  | succ left ih => simp only [drawRows, ih, indirect, hi, hm]

/-- An instruction runs alike whatever the batch counter and the host's list hold, and leaves both. -/
theorem exec_host (i : Instr) {s t : State} (h : exec i s = .next t) :
    exec i ((s.setBatch b).setPending l) = .next ((t.setBatch b).setPending l) := by
  cases i
  case ret =>
    simp only [exec, execRet, State.pop] at h ⊢
    by_cases h0 : s.sp = 0 <;> simp [h0] at h ⊢ <;> subst h <;> rfl
  case call nnn =>
    simp only [exec, execCall, State.push] at h ⊢
    by_cases h0 : s.sp = s.params.stackDepth <;> simp [h0] at h ⊢ <;> subst h <;> rfl
  case ldVxK x =>
    simp only [exec, execLdVxK,
      show ((s.setBatch b).setPending l).firstKeyDown = s.firstKeyDown from rfl,
      show ((s.setBatch b).setPending l).keyDown = s.keyDown from rfl,
      State.setPending_waitKey, State.setBatch_waitKey] at h ⊢
    split <;> simp_all <;> split <;> simp_all <;> subst h <;> rfl
  case drw x y n =>
    simp only [exec, execDrw, Host.Outcome.next.injEq] at h ⊢
    subst h
    rw [drawRows_congr (s := s) (s' := (s.setBatch b).setPending l) rfl fun _ => rfl]
    rfl
  all_goals
    simp only [exec, execSeImm, execSneImm, execSeReg, execSneReg, execSkp, execSknp, execLdB,
      execStoreRegs, execLoadRegs, storeLoop_host, loadLoop_host, placeBytes_host,
      skipIf_host] at h ⊢
    cases h
    rfl

end

end Sys2Proof.Machine
end

