-- ==== Sys2Proof/Laws/Cycle.lean ====
section
/-! SUPPORT. What a cycle and a step of the model can do, said once for the proofs about steps. -/

namespace Sys2Proof.Machine

/-- An instruction always completes with a next state: no arm of `exec` stops. -/
theorem exec_next (i : Instr) (s : State) : ∃ t : State, exec i s = .next t := by
  cases i
  case ret => simp only [exec, execRet]; split <;> exact ⟨_, rfl⟩
  case call => simp only [exec, execCall]; split <;> exact ⟨_, rfl⟩
  case ldVxK => simp only [exec, execLdVxK]; split <;> split <;> exact ⟨_, rfl⟩
  all_goals exact ⟨_, rfl⟩

theorem cycle_next (s : State) : ∃ t : State, cycle s = .next t := by
  unfold cycle
  split
  · exact ⟨s, rfl⟩
  · split
    · exact exec_next _ _
    · exact ⟨s.advance, rfl⟩

/-- What a cycle does: nothing when halted, an instruction, or the advance of an unknown opcode. -/
theorem cycle_cases {s t : State} (h : cycle s = .next t) :
    (s.fault ≠ none ∧ t = s) ∨
    (s.fault = none ∧ ∃ i : Instr, decodeOp s.fetchWord = .instr i ∧ exec i s.advance = .next t) ∨
    (s.fault = none ∧ ∃ f : Nibble, decodeOp s.fetchWord = .unknown f ∧ t = s.advance) := by
  unfold cycle at h
  split at h
  · rename_i hh
    cases h
    exact .inl ⟨fun e => by simp [State.halted, e] at hh, rfl⟩
  · rename_i hh
    have hf : s.fault = none := by simpa [State.halted] using hh
    split at h
    · rename_i i hi
      exact .inr (.inl ⟨hf, i, hi, h⟩)
    · rename_i f hd
      cases h
      exact .inr (.inr ⟨hf, f, hd, rfl⟩)

/-- A cycle runs alike whatever the batch counter and the host's list hold, and leaves both. -/
theorem cycle_host (b : Option Nat) (l : List Command) {s t : State} (h : cycle s = .next t) :
    cycle ((s.setBatch b).setPending l) = .next ((t.setBatch b).setPending l) := by
  have hfw : ((s.setBatch b).setPending l).fetchWord = s.fetchWord := rfl
  rcases cycle_cases h with ⟨hf, rfl⟩ | ⟨hf, i, hi, he⟩ | ⟨hf, f, hd, rfl⟩
  · have : ((t.setBatch b).setPending l).halted = true := by
      cases ht : t.fault with
      | none => exact absurd ht hf
      | some c => simp [State.halted, ht]
    simp [cycle, this]
  · have := exec_host b l i he
    simp only [cycle, State.halted, State.setPending_fault, State.setBatch_fault, hf, hfw, hi]
    exact this
  · simp only [cycle, State.halted, State.setPending_fault, State.setBatch_fault, hf, hfw, hd]
    rfl

/-- What a step does, when it answers: a halted core drops its batch; the tick that ends a batch; one
cycle, the batch counter and the host's list moved; or one command of the host other than STEP. -/
theorem step_cases {s t : State} (h : step s = .next t) :
    (s.fault ≠ none ∧ (∃ n : Nat, s.batch = some n) ∧ t = s.setBatch none) ∨
    (s.fault = none ∧ s.batch = some 0 ∧ t = s.timerTick.setBatch none) ∨
    (s.runsCycle = true ∧ ∃ (t' : State) (b : Option Nat) (l : List Command),
      cycle s = .next t' ∧ t = (t'.setBatch b).setPending l) ∨
    (s.batch = none ∧ ∃ (image : List Byte) (rest : List Command),
      s.pending = .reset image :: rest ∧ imageWellFormed image = true ∧
      t = ((resetWith s.params image).setDraws s.draws).setPending rest) ∨
    (s.batch = none ∧ ∃ (k : BitVec 16) (rest : List Command),
      s.pending = .setKeys k :: rest ∧ t = (s.setPending rest).setKeys k) ∨
    (s.batch = none ∧ ∃ (n : Nat) (rest : List Command), s.pending = .batch n :: rest ∧
      t = (s.setPending rest).setBatch (if s.halted then none else some n)) := by
  obtain ⟨t', ht⟩ := cycle_next s
  unfold step hostStep at h
  split at h
  · rename_i n hb
    unfold batchStep at h
    split at h
    · rename_i hh
      cases h
      exact .inl ⟨fun e => by simp [State.halted, e] at hh, ⟨n, hb⟩, rfl⟩
    · rename_i hh
      split at h
      · cases h
        exact .inr (.inl ⟨by simpa [State.halted] using hh, hb, rfl⟩)
      · rename_i m
        have hc : cycle (s.setBatch (some m)) = .next ((t'.setBatch (some m)).setPending s.pending) :=
          cycle_host (some m) s.pending ht
        rw [hc] at h
        cases h
        refine .inr (.inr (.inl ⟨by simp [State.runsCycle, hb], t',
          if t'.halted then none else some m, s.pending, ht, ?_⟩))
        rw [show ((t'.setBatch (some m)).setPending s.pending).halted = t'.halted from rfl]
        split <;> rfl
  · rename_i hb
    split at h
    · rename_i hp
      exact .inr (.inr (.inl ⟨by simp [State.runsCycle, hb, hp], t, t.batch, t.pending, h, rfl⟩))
    · rename_i c rest hp
      cases c with
      | step =>
        have hc : cycle (s.setPending rest) = .next ((t'.setBatch s.batch).setPending rest) :=
          cycle_host s.batch rest ht
        simp only [startCommand, hc] at h
        cases h
        exact .inr (.inr (.inl ⟨by simp [State.runsCycle, hb, hp], t', s.batch, rest, ht, rfl⟩))
      | reset image =>
        simp only [startCommand, runReset] at h
        split at h
        · rename_i hw
          cases h
          exact .inr (.inr (.inr (.inl ⟨hb, image, rest, hp, hw, rfl⟩)))
        · cases h
      | setKeys k =>
        cases h
        exact .inr (.inr (.inr (.inr (.inl ⟨hb, k, rest, hp, rfl⟩))))
      | batch n =>
        cases h
        refine .inr (.inr (.inr (.inr (.inr ⟨hb, n, rest, hp, ?_⟩))))
        rw [show (s.setPending rest).halted = s.halted from rfl]
        cases hh : s.halted
        · rfl
        · exact congrArg (fun b => { s with pending := rest, batch := b }) hb

end Sys2Proof.Machine
end

