-- ==== Sys2Proof/Laws/Decode.lean ====
section
/-! SUPPORT. The fields of a word written as its nibbles, so that decoding an encoding reads back each
field (spec/30_encoding.md R91). -/

namespace Sys2Proof

section
variable (t x y n : Nibble) (nn : Byte) (nnn : BitVec 12)

/-- A field of a word is what the word's number divided and reduced gives. -/
theorem opT_toNat (op : Word) : (opT op).toNat = op.toNat / 4096 % 16 := by
  simp [opT, BitVec.extractLsb'_toNat, Nat.shiftRight_eq_div_pow]
theorem opX_toNat (op : Word) : (opX op).toNat = op.toNat / 256 % 16 := by
  simp [opX, BitVec.extractLsb'_toNat, Nat.shiftRight_eq_div_pow]
theorem opY_toNat (op : Word) : (opY op).toNat = op.toNat / 16 % 16 := by
  simp [opY, BitVec.extractLsb'_toNat, Nat.shiftRight_eq_div_pow]
theorem opN_toNat (op : Word) : (opN op).toNat = op.toNat % 16 := by
  simp [opN, BitVec.extractLsb'_toNat]
theorem opNN_toNat (op : Word) : (opNN op).toNat = op.toNat % 256 := by
  simp [opNN, BitVec.extractLsb'_toNat]
theorem opNNN_toNat (op : Word) : (opNNN op).toNat = op.toNat % 4096 := by
  simp [opNNN, BitVec.extractLsb'_toNat]

theorem word_nnn_toNat : (t ++ nnn : Word).toNat = t.toNat * 4096 + nnn.toNat := by
  have := nnn.isLt
  rw [BitVec.toNat_append, ← Nat.shiftLeft_add_eq_or_of_lt this, Nat.shiftLeft_eq]
theorem word_nn_toNat : (t ++ x ++ nn : Word).toNat = t.toNat * 4096 + x.toNat * 256 + nn.toNat := by
  have := nn.isLt
  have hx := x.isLt
  rw [BitVec.toNat_append, ← Nat.shiftLeft_add_eq_or_of_lt this, BitVec.toNat_append,
    ← Nat.shiftLeft_add_eq_or_of_lt hx, Nat.shiftLeft_eq, Nat.shiftLeft_eq]
  omega
theorem word_yn_toNat : (t ++ x ++ y ++ n : Word).toNat =
    t.toNat * 4096 + x.toNat * 256 + y.toNat * 16 + n.toNat := by
  have := n.isLt
  have hy := y.isLt
  have hx := x.isLt
  rw [BitVec.toNat_append, ← Nat.shiftLeft_add_eq_or_of_lt this, BitVec.toNat_append,
    ← Nat.shiftLeft_add_eq_or_of_lt hy, BitVec.toNat_append,
    ← Nat.shiftLeft_add_eq_or_of_lt hx, Nat.shiftLeft_eq, Nat.shiftLeft_eq, Nat.shiftLeft_eq]
  omega

@[simp] theorem opT_nnn : opT (t ++ nnn : Word) = t := by
  apply BitVec.eq_of_toNat_eq
  rw [opT_toNat, word_nnn_toNat]
  omega
@[simp] theorem opNNN_nnn : opNNN (t ++ nnn : Word) = nnn := by
  apply BitVec.eq_of_toNat_eq
  rw [opNNN_toNat, word_nnn_toNat]
  omega
@[simp] theorem opT_nn : opT (t ++ x ++ nn : Word) = t := by
  apply BitVec.eq_of_toNat_eq
  rw [opT_toNat, word_nn_toNat]
  omega
@[simp] theorem opX_nn : opX (t ++ x ++ nn : Word) = x := by
  apply BitVec.eq_of_toNat_eq
  rw [opX_toNat, word_nn_toNat]
  omega
@[simp] theorem opNN_nn : opNN (t ++ x ++ nn : Word) = nn := by
  apply BitVec.eq_of_toNat_eq
  rw [opNN_toNat, word_nn_toNat]
  omega
@[simp] theorem opT_yn : opT (t ++ x ++ y ++ n : Word) = t := by
  apply BitVec.eq_of_toNat_eq
  rw [opT_toNat, word_yn_toNat]
  omega
@[simp] theorem opX_yn : opX (t ++ x ++ y ++ n : Word) = x := by
  apply BitVec.eq_of_toNat_eq
  rw [opX_toNat, word_yn_toNat]
  omega
@[simp] theorem opY_yn : opY (t ++ x ++ y ++ n : Word) = y := by
  apply BitVec.eq_of_toNat_eq
  rw [opY_toNat, word_yn_toNat]
  omega
@[simp] theorem opN_yn : opN (t ++ x ++ y ++ n : Word) = n := by
  apply BitVec.eq_of_toNat_eq
  rw [opN_toNat, word_yn_toNat]
  omega

end

end Sys2Proof
end

