-- ==== Sys2Proof/Laws/PerInstr.lean ====
section
/-! SUPPORT. The family RowMatch, one lemma for each instruction: its word belongs to its own row of
the opcode map, that is, the word's bits under the row's mask are the row's pattern
(spec/30_encoding.md R94, R95). -/

namespace Sys2Proof.Laws.RowMatch

/-- The word of `i` matches the row of `i`. -/
def Statement (i : Instr) : Prop := encode i &&& (opcodeRow i).mask = (opcodeRow i).pat

theorem mask_nnn (t : Nibble) (nnn : BitVec 12) :
    (t ++ nnn : Word) &&& 0xF000#16 = t ++ 0#12 := by
  rw [show (0xF000#16 : Word) = 0xF#4 ++ 0#12 from rfl, BitVec.and_append,
    show (0xF#4 : Nibble) = BitVec.allOnes 4 from rfl, BitVec.and_allOnes, BitVec.and_zero]

theorem mask_nn (t x : Nibble) (nn : Byte) :
    (t ++ x ++ nn : Word) &&& 0xF000#16 = t ++ 0#4 ++ 0#8 := by
  rw [show (0xF000#16 : Word) = 0xF#4 ++ 0#4 ++ 0#8 from rfl, BitVec.and_append, BitVec.and_append,
    show (0xF#4 : Nibble) = BitVec.allOnes 4 from rfl, BitVec.and_allOnes, BitVec.and_zero,
    BitVec.and_zero]

theorem mask_xf (t x : Nibble) (nn : Byte) :
    (t ++ x ++ nn : Word) &&& 0xF0FF#16 = t ++ 0#4 ++ nn := by
  rw [show (0xF0FF#16 : Word) = 0xF#4 ++ 0#4 ++ 0xFF#8 from rfl, BitVec.and_append,
    BitVec.and_append, show (0xF#4 : Nibble) = BitVec.allOnes 4 from rfl, BitVec.and_allOnes,
    BitVec.and_zero, show (0xFF#8 : Byte) = BitVec.allOnes 8 from rfl, BitVec.and_allOnes]

theorem mask_xy (t x y n : Nibble) :
    (t ++ x ++ y ++ n : Word) &&& 0xF00F#16 = t ++ 0#4 ++ 0#4 ++ n := by
  rw [show (0xF00F#16 : Word) = 0xF#4 ++ 0#4 ++ 0#4 ++ 0xF#4 from rfl, BitVec.and_append,
    BitVec.and_append, BitVec.and_append, show (0xF#4 : Nibble) = BitVec.allOnes 4 from rfl,
    BitVec.and_allOnes, BitVec.and_allOnes, BitVec.and_zero, BitVec.and_zero]

theorem mask_xyn (t x y n : Nibble) :
    (t ++ x ++ y ++ n : Word) &&& 0xF000#16 = t ++ 0#4 ++ 0#4 ++ 0#4 := by
  rw [show (0xF000#16 : Word) = 0xF#4 ++ 0#4 ++ 0#4 ++ 0#4 from rfl, BitVec.and_append,
    BitVec.and_append, BitVec.and_append, show (0xF#4 : Nibble) = BitVec.allOnes 4 from rfl,
    BitVec.and_allOnes, BitVec.and_zero, BitVec.and_zero, BitVec.and_zero]

theorem cls : Statement .cls := rfl
theorem ret : Statement .ret := rfl
theorem jp (nnn : BitVec 12) : Statement (.jp nnn) := mask_nnn _ _
theorem call (nnn : BitVec 12) : Statement (.call nnn) := mask_nnn _ _
theorem seImm (x : Reg) (nn : Byte) : Statement (.seImm x nn) := mask_nn _ _ _
theorem sneImm (x : Reg) (nn : Byte) : Statement (.sneImm x nn) := mask_nn _ _ _
theorem seReg (x : Reg) (y : Reg) : Statement (.seReg x y) := mask_xy _ _ _ _
theorem ldImm (x : Reg) (nn : Byte) : Statement (.ldImm x nn) := mask_nn _ _ _
theorem addImm (x : Reg) (nn : Byte) : Statement (.addImm x nn) := mask_nn _ _ _
theorem ldReg (x : Reg) (y : Reg) : Statement (.ldReg x y) := mask_xy _ _ _ _
theorem orReg (x : Reg) (y : Reg) : Statement (.orReg x y) := mask_xy _ _ _ _
theorem andReg (x : Reg) (y : Reg) : Statement (.andReg x y) := mask_xy _ _ _ _
theorem xorReg (x : Reg) (y : Reg) : Statement (.xorReg x y) := mask_xy _ _ _ _
theorem addReg (x : Reg) (y : Reg) : Statement (.addReg x y) := mask_xy _ _ _ _
theorem subReg (x : Reg) (y : Reg) : Statement (.subReg x y) := mask_xy _ _ _ _
theorem shrReg (x : Reg) (y : Reg) : Statement (.shrReg x y) := mask_xy _ _ _ _
theorem subnReg (x : Reg) (y : Reg) : Statement (.subnReg x y) := mask_xy _ _ _ _
theorem shlReg (x : Reg) (y : Reg) : Statement (.shlReg x y) := mask_xy _ _ _ _
theorem sneReg (x : Reg) (y : Reg) : Statement (.sneReg x y) := mask_xy _ _ _ _
theorem ldI (nnn : BitVec 12) : Statement (.ldI nnn) := mask_nnn _ _
theorem jpx (nnn : BitVec 12) : Statement (.jpx nnn) := mask_nnn _ _
theorem rnd (x : Reg) (nn : Byte) : Statement (.rnd x nn) := mask_nn _ _ _
theorem drw (x : Reg) (y : Reg) (n : Nibble) : Statement (.drw x y n) := mask_xyn _ _ _ _
theorem skp (x : Reg) : Statement (.skp x) := mask_xf _ _ _
theorem sknp (x : Reg) : Statement (.sknp x) := mask_xf _ _ _
theorem ldVxDt (x : Reg) : Statement (.ldVxDt x) := mask_xf _ _ _
theorem ldVxK (x : Reg) : Statement (.ldVxK x) := mask_xf _ _ _
theorem ldDtVx (x : Reg) : Statement (.ldDtVx x) := mask_xf _ _ _
theorem ldStVx (x : Reg) : Statement (.ldStVx x) := mask_xf _ _ _
theorem addI (x : Reg) : Statement (.addI x) := mask_xf _ _ _
theorem ldF (x : Reg) : Statement (.ldF x) := mask_xf _ _ _
theorem ldB (x : Reg) : Statement (.ldB x) := mask_xf _ _ _
theorem storeRegs (x : Reg) : Statement (.storeRegs x) := mask_xf _ _ _
theorem loadRegs (x : Reg) : Statement (.loadRegs x) := mask_xf _ _ _

end Sys2Proof.Laws.RowMatch
end

