-- ==== Sys2Proof/Tests/Slice0.lean ====
section
/-! SUPPORT. Tests of the model against the spec: the smoke test of the well-formedness checks, one word
for each constructor, the spec's own vectors (spec/95_test_vectors.md), and for each statement with
hypotheses a witness that meets them. -/

namespace Sys2Proof.Tests

open Sys2Proof.Machine

/-! ## Well-formedness

An ill-formed instruction cannot be written down: every field has its width in its type. The checks
a term can fail are those of a program image (R69) and of the parameters (R8). -/

theorem test_image_of_3584_bytes_accepted :
    imageWellFormed (List.replicate 3584 0#8) = true := by
  rw [imageWellFormed, List.length_replicate]
  decide

theorem test_image_of_3585_bytes_refused :
    imageWellFormed (List.replicate 3585 0#8) = false := by
  rw [imageWellFormed, List.length_replicate]
  decide

/-- A stack of no entries (R8). -/
theorem test_depth_zero_refused :
    (Config.Params.mk 0 defaultParams.font).wellFormed = false ∧ defaultParams.wellFormed = true := by
  decide

theorem test_every_instruction_well_formed (i : Instr) : i.wellFormed = true := by
  cases i <;> simp only [Instr.wellFormed, Bool.and_eq_true, decide_eq_true_eq] <;>
    first
      | exact BitVec.isLt _
      | exact ⟨BitVec.isLt _, BitVec.isLt _⟩
      | exact ⟨⟨BitVec.isLt _, BitVec.isLt _⟩, BitVec.isLt _⟩

/-! ## Decoding: each word written out from its pattern in R95 -/

theorem test_decode_cls : decodeOp 0x00E0#16 = .instr (.cls) := by decide
theorem test_decode_ret : decodeOp 0x00EE#16 = .instr (.ret) := by decide
theorem test_decode_jp : decodeOp 0x1ABC#16 = .instr (.jp 0xABC#12) := by decide
theorem test_decode_call : decodeOp 0x2DEF#16 = .instr (.call 0xDEF#12) := by decide
theorem test_decode_seImm : decodeOp 0x3A5C#16 = .instr (.seImm 0xA#4 0x5C#8) := by decide
theorem test_decode_sneImm : decodeOp 0x4B6D#16 = .instr (.sneImm 0xB#4 0x6D#8) := by decide
theorem test_decode_seReg : decodeOp 0x5120#16 = .instr (.seReg 1#4 2#4) := by decide
theorem test_decode_ldImm : decodeOp 0x6F07#16 = .instr (.ldImm 0xF#4 0x07#8) := by decide
theorem test_decode_addImm : decodeOp 0x71F0#16 = .instr (.addImm 1#4 0xF0#8) := by decide
theorem test_decode_ldReg : decodeOp 0x8120#16 = .instr (.ldReg 1#4 2#4) := by decide
theorem test_decode_orReg : decodeOp 0x8341#16 = .instr (.orReg 3#4 4#4) := by decide
theorem test_decode_andReg : decodeOp 0x8562#16 = .instr (.andReg 5#4 6#4) := by decide
theorem test_decode_xorReg : decodeOp 0x8783#16 = .instr (.xorReg 7#4 8#4) := by decide
theorem test_decode_addReg : decodeOp 0x89A4#16 = .instr (.addReg 9#4 0xA#4) := by decide
theorem test_decode_subReg : decodeOp 0x8BC5#16 = .instr (.subReg 0xB#4 0xC#4) := by decide
theorem test_decode_shrReg : decodeOp 0x8DE6#16 = .instr (.shrReg 0xD#4 0xE#4) := by decide
theorem test_decode_subnReg : decodeOp 0x8F07#16 = .instr (.subnReg 0xF#4 0#4) := by decide
theorem test_decode_shlReg : decodeOp 0x812E#16 = .instr (.shlReg 1#4 2#4) := by decide
theorem test_decode_sneReg : decodeOp 0x9340#16 = .instr (.sneReg 3#4 4#4) := by decide
theorem test_decode_ldI : decodeOp 0xAFED#16 = .instr (.ldI 0xFED#12) := by decide
theorem test_decode_jpx : decodeOp 0xB210#16 = .instr (.jpx 0x210#12) := by decide
theorem test_decode_rnd : decodeOp 0xC30F#16 = .instr (.rnd 3#4 0x0F#8) := by decide
theorem test_decode_drw : decodeOp 0xD12A#16 = .instr (.drw 1#4 2#4 0xA#4) := by decide
theorem test_decode_skp : decodeOp 0xE39E#16 = .instr (.skp 3#4) := by decide
theorem test_decode_sknp : decodeOp 0xE4A1#16 = .instr (.sknp 4#4) := by decide
theorem test_decode_ldVxDt : decodeOp 0xF507#16 = .instr (.ldVxDt 5#4) := by decide
theorem test_decode_ldVxK : decodeOp 0xF60A#16 = .instr (.ldVxK 6#4) := by decide
theorem test_decode_ldDtVx : decodeOp 0xF715#16 = .instr (.ldDtVx 7#4) := by decide
theorem test_decode_ldStVx : decodeOp 0xF818#16 = .instr (.ldStVx 8#4) := by decide
theorem test_decode_addI : decodeOp 0xF91E#16 = .instr (.addI 9#4) := by decide
theorem test_decode_ldF : decodeOp 0xFA29#16 = .instr (.ldF 0xA#4) := by decide
theorem test_decode_ldB : decodeOp 0xFB33#16 = .instr (.ldB 0xB#4) := by decide
theorem test_decode_storeRegs : decodeOp 0xFC55#16 = .instr (.storeRegs 0xC#4) := by decide
theorem test_decode_loadRegs : decodeOp 0xFD65#16 = .instr (.loadRegs 0xD#4) := by decide

theorem test_decode_table_word : decodeTableWord 16 0xC30F = some (.rnd 3#4 0x0F#8) := by decide

theorem test_decode_unknown : decodeOp 0x00E1#16 = .unknown 0#4 ∧ decodeOp 0x5121#16 = .unknown 5#4 ∧
    decodeOp 0x8128#16 = .unknown 8#4 ∧ decodeOp 0xE19F#16 = .unknown 0xE#4 ∧
    decodeOp 0xF175#16 = .unknown 0xF#4 := by decide

/-! ## One step on a small state, from the vectors of spec/95_test_vectors.md -/

/-- What `f` sees in the state after the step that runs the word `op`, placed where `s` fetches. -/
def after {α : Type} (op : Nat) (s : State) (f : State → α) : Option α :=
  match step (s.withFetchWord 16 op) with
  | .next t => some (f t)
  | .fault _ => none
  | .refused _ => none

/-- Reset, with `b` in `V[x]`. -/
def r1 (x : Reg) (b : Byte) : State := State.reset.setReg x b

/-- Reset, with `b` in `V[x]` and `c` in `V[y]`. -/
def r2 (x : Reg) (b : Byte) (y : Reg) (c : Byte) : State := (r1 x b).setReg y c

/-- The bytes at addresses `a`, `a + 1`, … of the bus, as many as `n`. -/
def bytesFrom (n : Nat) (a : Word) (s : State) : List Byte :=
  (List.range n).map fun k => s.memRead (a + BitVec.ofNat 16 k)

/-- T-C2. -/
theorem test_jp :
    after 0x1FFF State.reset
      State.pc = some 0x0FFF#16 := by decide

/-- T-C7. -/
theorem test_call :
    after 0x2400 (State.reset.setPc 0x0FFE#16)
      (fun t => (t.pc, t.sp, t.entry 0)) = some (0x0400#16, 1, 0x1000#16) := by decide

/-- T-C6. -/
theorem test_call_full :
    after 0x2300 (State.reset.setStack State.reset.stack 16)
      (fun t => (t.fault, t.pc, t.sp)) = some (some .stackOverflow, 0x0202#16, 16) := by decide

/-- T-C4. -/
theorem test_ret :
    after 0x00EE ((State.reset.setStack (State.reset.stack.set 0 0x0202#16) 1).setPc 0x0ABC#16)
      (fun t => (t.pc, t.sp)) = some (0x0202#16, 0) := by decide

/-- T-C5. -/
theorem test_ret_empty :
    after 0x00EE State.reset
      (fun t => (t.fault, t.pc)) = some (some .stackUnderflow, 0x0202#16) := by decide

/-- T-B1. -/
theorem test_jpx_register :
    after 0xB210 (r2 2#4 0x04#8 0#4 0x80#8)
      State.pc = some 0x0214#16 := by decide

/-- T-B2. -/
theorem test_jpx_top :
    after 0xBFFF (r1 15#4 0xFF#8)
      State.pc = some 0x10FE#16 := by decide

/-- T-C8. -/
theorem test_seImm :
    after 0x3342 (r1 3#4 0x42#8)
      State.pc = some 0x0204#16 := by decide

/-- T-C9. -/
theorem test_seImm_not :
    after 0x3342 (r1 3#4 0x41#8)
      State.pc = some 0x0202#16 := by decide

/-- T-C11. -/
theorem test_sneImm :
    after 0x4342 (r1 3#4 0x41#8)
      State.pc = some 0x0204#16 := by decide

/-- T-C10. -/
theorem test_sneImm_not :
    after 0x4342 (r1 3#4 0x42#8)
      State.pc = some 0x0202#16 := by decide

/-- T-C12. -/
theorem test_seReg_same_register :
    after 0x5440 (r1 4#4 9#8)
      State.pc = some 0x0204#16 := by decide

/-- T-C13. -/
theorem test_seReg_not :
    after 0x5450 (r2 4#4 9#8 5#4 8#8)
      State.pc = some 0x0202#16 := by decide

/-- T-C14. -/
theorem test_sneReg_same_register :
    after 0x9440 (r1 4#4 9#8)
      State.pc = some 0x0202#16 := by decide

/-- T-C15. -/
theorem test_sneReg :
    after 0x9450 (r2 4#4 9#8 5#4 8#8)
      State.pc = some 0x0204#16 := by decide

/-- T-F2. -/
theorem test_fetch_wraps :
    after 0x6A77 (State.reset.setPc 0x0FFF#16)
      (fun t => (t.reg 10#4, t.pc, t.memRead 0x1000#16)) = some (0x77#8, 0x1001#16, 0x77#8) := by decide

/-- T-F5. -/
theorem test_unknown :
    after 0x5121 State.reset
      (fun t => (t.pc, t.reg 1#4, t.fault)) = some (0x0202#16, 0#8, none) := by decide

/-- T-A1. -/
theorem test_ldImm_vf :
    after 0x6F07 State.reset
      (fun t => t.reg 15#4) = some 0x07#8 := by decide

/-- T-A2. -/
theorem test_addImm_wraps :
    after 0x71F0 (r2 1#4 0x10#8 15#4 0x5A#8)
      (fun t => (t.reg 1#4, t.reg 15#4)) = some (0#8, 0x5A#8) := by decide

/-- T-A4. -/
theorem test_addImm_vf :
    after 0x7F03 (r1 15#4 0xFE#8)
      (fun t => t.reg 15#4) = some 0x01#8 := by decide

/-- T-A5. -/
theorem test_ldReg :
    after 0x8120 (r2 2#4 0x9C#8 1#4 1#8)
      (fun t => t.reg 1#4) = some 0x9C#8 := by decide

/-- T-A7. -/
theorem test_orReg :
    after 0x8121 ((r2 1#4 0x50#8 2#4 0x05#8).setReg 15#4 0xAB#8)
      (fun t => (t.reg 1#4, t.reg 15#4)) = some (0x55#8, 0#8) := by decide

/-- T-A8. -/
theorem test_orReg_vf :
    after 0x8F21 (r2 15#4 0xF0#8 2#4 0x0F#8)
      (fun t => t.reg 15#4) = some 0#8 := by decide

/-- T-A10. -/
theorem test_andReg :
    after 0x8122 ((r2 1#4 0xFF#8 2#4 0#8).setReg 15#4 1#8)
      (fun t => (t.reg 1#4, t.reg 15#4)) = some (0#8, 0#8) := by decide

/-- T-A11. -/
theorem test_xorReg_same_register :
    after 0x8113 (r2 1#4 0x5A#8 15#4 1#8)
      (fun t => (t.reg 1#4, t.reg 15#4)) = some (0#8, 0#8) := by decide

/-- T-A13. -/
theorem test_addReg_carry :
    after 0x8124 (r2 1#4 0xFF#8 2#4 0xFF#8)
      (fun t => (t.reg 1#4, t.reg 15#4)) = some (0xFE#8, 1#8) := by decide

/-- T-A15. -/
theorem test_addReg_vf :
    after 0x8F24 (r2 15#4 0xFF#8 2#4 0x02#8)
      (fun t => t.reg 15#4) = some 1#8 := by decide

/-- T-A17. -/
theorem test_subReg_equal :
    after 0x8125 (r2 1#4 0x10#8 2#4 0x10#8)
      (fun t => (t.reg 1#4, t.reg 15#4)) = some (0#8, 1#8) := by decide

/-- T-A18. -/
theorem test_subReg_borrow :
    after 0x8125 (r2 1#4 0#8 2#4 1#8)
      (fun t => (t.reg 1#4, t.reg 15#4)) = some (0xFF#8, 0#8) := by decide

/-- T-A20. -/
theorem test_subnReg_borrow :
    after 0x8127 (r2 1#4 1#8 2#4 0#8)
      (fun t => (t.reg 1#4, t.reg 15#4)) = some (0xFF#8, 0#8) := by decide

/-- T-A21. -/
theorem test_subnReg :
    after 0x8127 (r2 1#4 0#8 2#4 0xFF#8)
      (fun t => (t.reg 1#4, t.reg 15#4)) = some (0xFF#8, 1#8) := by decide

/-- T-A24. -/
theorem test_shrReg_takes_vy :
    after 0x8126 (r2 1#4 0xAA#8 2#4 1#8)
      (fun t => (t.reg 1#4, t.reg 15#4)) = some (0#8, 1#8) := by decide

/-- T-A30. -/
theorem test_shrReg_source_vf :
    after 0x81F6 (r1 15#4 7#8)
      (fun t => (t.reg 1#4, t.reg 15#4)) = some (3#8, 1#8) := by decide

/-- T-A31. -/
theorem test_shlReg_takes_vy :
    after 0x812E (r2 1#4 0xAA#8 2#4 0x80#8)
      (fun t => (t.reg 1#4, t.reg 15#4)) = some (0#8, 1#8) := by decide

/-- T-A32. -/
theorem test_shlReg :
    after 0x812E (r1 2#4 0x7F#8)
      (fun t => (t.reg 1#4, t.reg 15#4)) = some (0xFE#8, 0#8) := by decide

/-- T-A35, whatever the random byte is. -/
theorem test_rnd_masked :
    after 0xC100 State.reset (fun t => (t.reg 1#4, t.draws)) = some (0#8, 1) := by
  have h : ∀ b : Byte, b &&& 0#8 = 0#8 := by decide
  exact congrArg (fun b => some (b, 1)) (h (Config.randIn 0))

/-- T-A36: the whole byte is the one drawn. -/
theorem test_rnd_all :
    after 0xC1FF State.reset (fun t => t.reg 1#4) = some (Config.randIn 0) := by
  have h : ∀ b : Byte, b &&& 0xFF#8 = b := by decide
  exact congrArg some (h (Config.randIn 0))

/-- T-M1. -/
theorem test_ldI :
    after 0xAFFF State.reset
      State.i = some 0x0FFF#16 := by decide

/-- T-M2. -/
theorem test_addI :
    after 0xF11E (((r2 1#4 1#8 15#4 0x5A#8)).setI 0x0FFF#16)
      (fun t => (t.i, t.reg 15#4)) = some (0x1000#16, 0x5A#8) := by decide

/-- T-M3. -/
theorem test_addI_wraps :
    after 0xF11E ((r1 1#4 2#8).setI 0xFFFF#16)
      State.i = some 0x0001#16 := by decide

/-- T-M6. -/
theorem test_ldF_low_nibble :
    after 0xF129 (r1 1#4 0xFA#8)
      State.i = some 0x0082#16 := by decide

/-- T-M8. -/
theorem test_ldB_255 :
    after 0xF133 ((r1 1#4 255#8).setI 0x300#16)
      (fun t => (bytesFrom 3 0x300#16 t, t.i)) = some ([2#8, 5#8, 5#8], 0x300#16) := by decide

/-- T-M11. -/
theorem test_ldB_wraps :
    after 0xF133 ((r1 1#4 128#8).setI 0x0FFE#16)
      (fun t => (bytesFrom 2 0x0FFE#16 t, t.memRead 0#16)) = some ([1#8, 2#8], 8#8) := by decide

/-- T-M12. -/
theorem test_storeRegs_one :
    after 0xF055 ((r1 0#4 0xAB#8).setI 0x400#16)
      (fun t => (bytesFrom 2 0x400#16 t, t.i)) = some ([0xAB#8, 0#8], 0x0401#16) := by decide

/-- T-M13's registers: V[k] = k + 1. -/
def counting : State :=
  (List.range 16).foldl (fun s k => s.setReg (BitVec.ofNat 4 k) (BitVec.ofNat 8 (k + 1))) State.reset

/-- T-M13. -/
theorem test_storeRegs_all_wraps :
    after 0xFF55 (counting.setI 0x0FF8#16)
      (fun t => (bytesFrom 16 0x0FF8#16 t, t.i)) = some ((List.range 16).map (fun k => BitVec.ofNat 8 (k + 1)), 0x1008#16) := by decide

/-- T-M14. -/
theorem test_loadRegs :
    after 0xF265 (((r1 3#4 0x55#8).placeBytes 0x400#16 [7#8, 8#8, 9#8]).setI 0x400#16)
      (fun t => (t.reg 0#4, t.reg 1#4, t.reg 2#4, t.reg 3#4, t.i)) = some (7#8, 8#8, 9#8, 0x55#8, 0x0403#16) := by decide

/-- T-M16. -/
theorem test_loadRegs_font :
    after 0xF465 (State.reset.setI 0x0050#16)
      (fun t => (t.reg 0#4, t.reg 1#4, t.reg 4#4, t.i)) = some (0xF0#8, 0x90#8, 0xF0#8, 0x0055#16) := by decide

/-- T-D1, T-D3, T-D4, T-D5, T-D7 and T-D9: the masks of draw_sprite_row. -/
theorem test_sprite_masks :
    spriteMask 0#6 0xFF#8 = 0xFF00000000000000#64 ∧ spriteMask 10#6 0xC3#8 = 0x0030C00000000000#64 ∧
    spriteMask 56#6 0xFF#8 = 0xFF#64 ∧ spriteMask 57#6 0xFF#8 = 0x7F#64 ∧
    spriteMask 61#6 0xA5#8 = 5#64 ∧ spriteMask 63#6 0x7F#8 = 0#64 := by decide

/-- Reset, with the bytes `bytes` at 0x300, I there, the display rows 0 and 1 as given, and the
sprite coordinates in V[0] and V[1]. -/
def sprite (bytes : List Byte) (row0 row1 : Row) (x y : Byte) : State :=
  (((r2 0#4 x 1#4 y).placeBytes 0x300#16 bytes).setI 0x300#16).setFb
    ((State.reset.fb.set 0 row0).set 1 row1)

/-- T-D10. -/
theorem test_cls :
    after 0x00E0 ((sprite [] (BitVec.allOnes 64) 0#64 0#8 0#8).setReg 15#4 9#8)
      (fun t => (t.fb, t.reg 15#4)) = some (Vector.replicate 32 0#64, 9#8) := by decide

/-- T-D11. -/
theorem test_drw_start_wraps :
    after 0xD011 (sprite [0x80#8] 0#64 0#64 70#8 40#8)
      (fun t => (t.fb[8], t.reg 15#4)) = some (0x0200000000000000#64, 0#8) := by decide

/-- T-D20. -/
theorem test_drw_collides_in_one_row :
    after 0xD012 (sprite [0x80#8, 0x80#8] 0x8000000000000000#64 0#64 0#8 0#8)
      (fun t => (t.fb[0], t.fb[1], t.reg 15#4)) = some (0#64, 0x8000000000000000#64, 1#8) := by decide

/-- T-T1. -/
theorem test_ldVxDt :
    after 0xF107 (State.reset.setDt 9#8)
      (fun t => t.reg 1#4) = some 9#8 := by decide

/-- T-T2. -/
theorem test_ldDtVx :
    after 0xF115 (r1 1#4 0xFF#8)
      State.dt = some 0xFF#8 := by decide

/-- T-T3. -/
theorem test_ldStVx :
    after 0xF118 (r1 1#4 2#8)
      State.st = some 2#8 := by decide

/-- T-K3. -/
theorem test_skp_low_nibble :
    after 0xE19E ((r1 1#4 0x3A#8).setKeys 0x0400#16)
      State.pc = some 0x0204#16 := by decide

/-- T-K2. -/
theorem test_skp_up :
    after 0xE19E (r1 1#4 0x0A#8)
      State.pc = some 0x0202#16 := by decide

/-- T-K4. -/
theorem test_sknp_down :
    after 0xE1A1 ((r1 1#4 0x0A#8).setKeys 0x0400#16)
      State.pc = some 0x0202#16 := by decide

/-- T-K5. -/
theorem test_sknp_up :
    after 0xE1A1 (r1 1#4 0x0A#8)
      State.pc = some 0x0204#16 := by decide

/-- T-K7. -/
theorem test_ldVxK_latches_lowest :
    after 0xF30A (State.reset.setKeys 0x0210#16)
      (fun t => (t.pc, t.waitKey)) = some (0x0200#16, some 4) := by decide

/-- T-K9. -/
theorem test_ldVxK_completes :
    after 0xF30A (((r1 3#4 0xEE#8).setKeys 0x0200#16).setWaitKey (some 4))
      (fun t => (t.reg 3#4, t.waitKey, t.pc)) = some (4#8, none, 0x0202#16) := by decide

/-- Other parameters than the defaults: a stack of one entry, a font of bytes 0xA5. -/
def otherParams : Config.Params := ⟨1, Vector.replicate 80 0xA5#8⟩

/-- R142 with STACK_DEPTH = 1: the first call pushes, the second overflows. -/
theorem test_call_other_depth :
    after 0x2400 (State.resetFor otherParams) (fun t => (t.fault, t.sp, t.entry 0)) =
        some (none, 1, 0x0202#16) ∧
      after 0x2400 ((State.resetFor otherParams).setStack [0x0300#16] 1) (fun t => (t.fault, t.sp)) =
        some (some .stackOverflow, 1) := by decide

/-- R71 with another font: FX65 reads its bytes from 0x050 to 0x09F and zero next to them. -/
theorem test_loadRegs_other_font :
    after 0xF165 ((State.resetFor otherParams).setI 0x004F#16) (fun t => (t.reg 0#4, t.reg 1#4)) =
        some (0#8, 0xA5#8) ∧
      after 0xF165 ((State.resetFor otherParams).setI 0x009F#16) (fun t => (t.reg 0#4, t.reg 1#4)) =
        some (0xA5#8, 0#8) := by decide

/-- T-K8: the tone is the free constant. -/
theorem test_ldVxK_tone :
    after 0xF30A ((State.reset.setKeys 0x0010#16).setWaitKey (some 4))
      (fun t => (t.st, t.pc, t.waitKey)) = some (Config.keywaitTone, 0x0200#16, some 4) := rfl

/-- T-T5. -/
theorem test_timer_tick :
    ((State.reset.setSt 255#8).timerTick.dt, (State.reset.setSt 255#8).timerTick.st) =
      (0#8, 254#8) := by decide

/-- T-T6: BATCH(0) over a self-loop. -/
theorem test_empty_batch_ticks :
    (match runCommand (.batch 0) ((State.reset.setDt 5#8).withFetchWord 16 0x1200) with
      | .next t => some (t.dt, t.pc)
      | .fault _ => none
      | .refused _ => none) = some (4#8, 0x0200#16) := by decide

/-- R290: RESET with an image; the font and zero elsewhere. -/
theorem test_reset_with_image :
    (resetWith defaultParams [0x12#8, 0x34#8]).fetchWord = 0x1234#16 ∧
      bytesFrom 2 0x9E#16 (resetWith defaultParams [0x12#8, 0x34#8]) = [0x80#8, 0x80#8] ∧
      (resetWith defaultParams [0x12#8, 0x34#8]).memRead 0xA0#16 = 0#8 := by decide

/-! ## Witnesses: the hypotheses of each statement are met, clause by clause -/

/-- The state the step of `s` answers, and `s` itself where it answers none. -/
def next (s : State) : State :=
  match step s with
  | .next t => t
  | .fault _ => s
  | .refused _ => s

/-- Reset with the word `op` where it fetches and the host's commands `l` listed. -/
def ready (op : Nat) (l : List Command) : State := (State.reset.withFetchWord 16 op).setPending l

theorem witness_EncodeOfDecode : decodeOp 0x8126#16 = .instr (.shrReg 1#4 2#4) := by decide

theorem witness_DecodeFollowsOpcodeMap :
    (⟨"SHR_Vx__Vy", 0xF00F#16, 0x8006#16⟩ : OpcodeRow) ∈ opcodeMap ∧
      0x8126#16 &&& 0xF00F#16 = 0x8006#16 ∧ 0x8127#16 &&& 0xF00F#16 ≠ 0x8006#16 := by decide

theorem witness_AddressesWrapModuloMemorySize :
    (0x0050#16).toNat % 4096 = (0xF050#16).toNat % 4096 := by decide

theorem witness_StepKeepsMemoryCanonical :
    Memory.wf (ready 0xF055 []).params.font (ready 0xF055 []).mem = true ∧ step (ready 0xF055 []) = .next (next (ready 0xF055 [])) :=
  ⟨by decide, rfl⟩

/-- Both ends of the image and of the font, and the addresses next to them. -/
theorem witness_ResetFillsMemoryAsMapped :
    ([0x12#8, 0x34#8] : List Byte).length ≤ 3584 ∧
      ((0x004F#16).toNat < 4096 ∧ (0x0050#16).toNat < 4096 ∧ (0x009F#16).toNat < 4096 ∧
        (0x00A0#16).toNat < 4096) ∧
      ((0x01FF#16).toNat < 4096 ∧ (0x0200#16).toNat < 4096 ∧ (0x0201#16).toNat < 4096 ∧
        (0x0202#16).toNat < 4096) ∧ (0x0FFF#16).toNat < 4096 := by decide

theorem witness_ResetFillsMemoryAsMapped_longest : (List.replicate 3584 0x01#8).length ≤ 3584 :=
  Nat.le_of_eq List.length_replicate

theorem witness_ResetMeetsTheInvariants :
    defaultParams.wellFormed = true ∧ ([0x12#8] : List Byte).length ≤ 3584 := by decide

theorem witness_StepRunsTheDecodedInstruction :
    (ready 0x6105 []).fault = none ∧
      decodeOp (ready 0x6105 []).fetchWord = .instr (.ldImm 1#4 5#8) ∧ (ready 0x6105 []).batch = none ∧
      (ready 0x6105 []).pending = [] := by decide

theorem witness_StepRunsTheDecodedInstruction_step :
    (ready 0x6105 [.step]).fault = none ∧
      decodeOp (ready 0x6105 [.step]).fetchWord = .instr (.ldImm 1#4 5#8) ∧
      (ready 0x6105 [.step]).batch = none ∧ (ready 0x6105 [.step]).pending = .step :: [] := by decide

/-- Inside a batch, an instruction that goes on and one that faults. -/
theorem witness_StepRunsTheDecodedInstruction_batch :
    ((ready 0x6105 []).setBatch (some 1)).fault = none ∧
      decodeOp ((ready 0x6105 []).setBatch (some 1)).fetchWord = .instr (.ldImm 1#4 5#8) ∧
      (∃ t : State, exec (.ldImm 1#4 5#8) ((ready 0x6105 []).setBatch (some 0)).advance = .next t ∧
        t.fault = none) ∧
      decodeOp ((ready 0x00EE []).setBatch (some 1)).fetchWord = .instr .ret ∧
      ∃ t : State, exec .ret ((ready 0x00EE []).setBatch (some 0)).advance = .next t ∧
        t.fault = some .stackUnderflow :=
  ⟨rfl, by decide, ⟨_, rfl, rfl⟩, by decide, ⟨_, rfl, rfl⟩⟩

theorem witness_UnknownOpcodeIsANoOp :
    (ready 0x0000 []).fault = none ∧ decodeOp (ready 0x0000 []).fetchWord = .unknown 0#4 ∧
      (ready 0x0000 []).batch = none ∧ (ready 0x0000 []).pending = [] ∧
      decodeOp (ready 0x5121 [.step]).fetchWord = .unknown 5#4 ∧
      (ready 0x5121 [.step]).fault = none ∧ (ready 0x5121 [.step]).batch = none ∧
      (ready 0x5121 [.step]).pending = .step :: [] := by decide

theorem witness_UnknownOpcodeIsANoOp_batch :
    ((ready 0x8128 []).setBatch (some 1)).fault = none ∧
      decodeOp ((ready 0x8128 []).setBatch (some 1)).fetchWord = .unknown 8#4 ∧
      ((ready 0x8128 []).setBatch (some 1)).batch = some (0 + 1) := by decide

/-- A halted core in a batch, with SETKEYS listed, and with RESET listed. -/
def halted (l : List Command) : State := (ready 0x1200 l).setFault (some .stackOverflow)

theorem witness_HaltedCoreIsFrozenUntilReset :
    (halted []).fault = some .stackOverflow ∧
      step ((halted []).setBatch (some 2)) = .next (halted []) ∧
      step (halted [.setKeys 1#16]) = .next ((halted []).setKeys 1#16) ∧
      step (halted [.reset []]) = .next State.reset := ⟨rfl, rfl, rfl, rfl⟩

theorem witness_StepsRefineHostCommands :
    (ready 0x1200 [.batch 2, .step]).batch = none ∧
      (ready 0x1200 [.batch 2, .step]).pending = .batch 2 :: [.step] := by decide

/-- The step that ends a batch, three cycles that go on, and one that faults. -/
theorem witness_BatchTicksTimersOnce :
    (let s := (ready 0x1200 []).setBatch (some 0);
      s.batch = some 0 ∧ s.fault = none) ∧
    (ready 0x1200 []).batch = none ∧ (ready 0x1200 []).pending = [] ∧
    (∃ u : State, Host.Core.run core 3 (ready 0x1200 []) = .next u ∧ u.fault = none) ∧
    (ready 0x00EE []).batch = none ∧ (ready 0x00EE []).pending = [] ∧
    ∃ u : State, Host.Core.run core 3 (ready 0x00EE []) = .next u ∧ u.fault ≠ none :=
  ⟨by decide, rfl, rfl, ⟨_, rfl, rfl⟩, rfl, rfl, ⟨_, rfl, by decide⟩⟩

theorem witness_BatchTicksTimersOnce_self_jump :
    (ready 0x1200 []).fault = none ∧ decodeOp (ready 0x1200 []).fetchWord = .instr (.jp 0x200#12) ∧
      (ready 0x1200 []).pc = addrImm 0x200#12 := by decide

/-- The tick, FX15 and RESET, each changing DT. -/
theorem witness_DelayTimerMovesOnlyAtBatchEnd :
    (let s := ((ready 0x1200 []).setDt 5#8).setBatch (some 0);
      step s = .next (next s) ∧ (next s).dt ≠ s.dt) ∧
    (let s := (ready 0xF115 []).setReg 1#4 7#8;
      step s = .next (next s) ∧ (next s).dt ≠ s.dt) ∧
    (let s := (ready 0x1200 [.reset []]).setDt 5#8;
      step s = .next (next s) ∧ (next s).dt ≠ s.dt) :=
  ⟨⟨rfl, by decide⟩, ⟨rfl, by decide⟩, ⟨rfl, by decide⟩⟩

/-- The tick, FX18 and RESET, each changing ST. -/
theorem witness_SoundTimerMovesOnlyByItsOwnCauses :
    (let s := ((ready 0x1200 []).setSt 5#8).setBatch (some 0);
      step s = .next (next s) ∧ (next s).st ≠ s.st) ∧
    (let s := (ready 0xF118 []).setReg 1#4 7#8;
      step s = .next (next s) ∧ (next s).st ≠ s.st) ∧
    (let s := (ready 0x1200 [.reset []]).setSt 5#8;
      step s = .next (next s) ∧ (next s).st ≠ s.st) :=
  ⟨⟨rfl, by decide⟩, ⟨rfl, by decide⟩, ⟨rfl, by decide⟩⟩

/-- FX0A with key 4 awaited and down, and an ST other than the tone, whatever the tone is. -/
def toned : State :=
  (((ready 0xF30A []).setKeys 0x0010#16).setWaitKey (some 4)).setSt (~~~Config.keywaitTone)

theorem witness_SoundTimerMovesOnlyByItsOwnCauses_tone :
    step toned = .next (toned.advance.setSt Config.keywaitTone).rewind ∧
      (toned.advance.setSt Config.keywaitTone).rewind.st ≠ toned.st := by
  have hd : decodeOp toned.fetchWord = .instr (.ldVxK 3#4) := by
    show decodeOp (ready 0xF30A []).fetchWord = .instr (.ldVxK 3#4)
    decide
  have hne : ∀ b : Byte, b ≠ ~~~b := by decide
  have hc : cycle toned = exec (.ldVxK 3#4) toned.advance := by
    rw [cycle, hd]
    rfl
  exact ⟨hc, hne Config.keywaitTone⟩

theorem witness_KeyLatchChangesOnlyBetweenBatches :
    (let s := ready 0x1200 [.setKeys 0x8001#16];
      step s = .next (next s) ∧ (next s).keys ≠ s.keys) ∧
    (let s := (ready 0x1200 [.reset []]).setKeys 1#16;
      step s = .next (next s) ∧ (next s).keys ≠ s.keys) :=
  ⟨⟨rfl, by decide⟩, ⟨rfl, by decide⟩⟩

/-- The longest image that fits, and one byte more. -/
theorem witness_ResetCommandReplacesTheMachine (n : Nat) :
    (ready 0x1200 [.reset (List.replicate n 0#8)]).batch = none ∧
      (ready 0x1200 [.reset (List.replicate n 0#8)]).pending =
        .reset (List.replicate n 0#8) :: [] ∧
      (List.replicate 3584 0#8).length ≤ 3584 ∧ 3584 < (List.replicate 3585 0#8).length := by
  exact ⟨rfl, rfl, Nat.le_of_eq List.length_replicate, by rw [List.length_replicate]; decide⟩

theorem witness_EveryInstructionWritesOnlyItsOwn :
    (Instr.addReg 1#4 2#4).names 3#4 = false ∧ (Instr.addReg 1#4 2#4).setsFlag = true ∧ 3#4 ≠ vf ∧
      busAddr 0x303#16 ∉ (Instr.ldB 1#4).storesAt (State.reset.setI 0x300#16) ∧
      busAddr 0x302#16 ∈ (Instr.ldB 1#4).storesAt (State.reset.setI 0x300#16) := by decide

theorem witness_FlagInstructionsLeaveZeroOrOne :
    (Instr.addReg 15#4 2#4).setsFlag = true ∧
      ∃ t : State, exec (.addReg 15#4 2#4) State.reset = .next t := ⟨rfl, _, rfl⟩

/-- A stack with `n` entries in use, all of them 0x0300. -/
def stacked (n : Nat) : State := State.reset.setStack (List.replicate 16 0x0300#16) n

theorem stacked_inv {n : Nat} (h : n ≤ 16) : (stacked n).StackInv := ⟨rfl, rfl, h⟩

/-- A call with one entry free, a return from a full stack, and a stack of another depth. -/
theorem witness_StepKeepsStackWithinDepth :
    ((stacked 15).withFetchWord 16 0x2400).StackInv ∧
      step ((stacked 15).withFetchWord 16 0x2400) = .next (next ((stacked 15).withFetchWord 16 0x2400)) ∧
      ((stacked 16).withFetchWord 16 0x00EE).StackInv ∧
      step ((stacked 16).withFetchWord 16 0x00EE) = .next (next ((stacked 16).withFetchWord 16 0x00EE)) ∧
      (State.resetFor otherParams).StackInv :=
  ⟨⟨rfl, rfl, by decide⟩, rfl, ⟨rfl, rfl, by decide⟩, rfl, ⟨rfl, rfl, by decide⟩⟩

theorem witness_StepKeepsTheParameters :
    step (State.resetFor otherParams) = .next (next (State.resetFor otherParams)) := rfl

theorem witness_FaultsComeOnlyFromReturnAndCall :
    (∃ t : State, exec .ret State.reset = .next t ∧ t.fault ≠ State.reset.fault) ∧
      ∃ t : State, exec (.call 0x300#12) (stacked 16) = .next t ∧ t.fault ≠ (stacked 16).fault :=
  ⟨⟨_, rfl, by decide⟩, ⟨_, rfl, by decide⟩⟩

/-- A core that awaits key 4, at its FX0A. -/
def awaiting (op : Nat) (l : List Command) : State := (ready op l).setWaitKey (some 4)

theorem witness_StepKeepsAwaitedKeyAtItsRead :
    (awaiting 0xF30A []).WaitInv ∧ (awaiting 0xF30A []).waitKey ≠ none ∧
      step (awaiting 0xF30A []) = .next (next (awaiting 0xF30A [])) :=
  ⟨fun _ => ⟨3#4, by decide⟩, by decide, rfl⟩

theorem witness_OnlyKeyReadSeesAwaitedKey :
    (∀ x : Reg, Instr.cls ≠ .ldVxK x) ∧ ∃ t : State, exec .cls (awaiting 0x00E0 []) = .next t :=
  ⟨by decide, _, rfl⟩

theorem witness_UnusedStackEntriesAreNeverRead :
    ((stacked 3).stack.set 3 0x0ABC#16).length = (stacked 3).stack.length ∧
      (∀ k : Nat, k < (stacked 3).sp →
        ((stacked 3).setStack ((stacked 3).stack.set 3 0x0ABC#16) 3).entry k = (stacked 3).entry k) ∧
      (stacked 3).stack.set 3 0x0ABC#16 ≠ (stacked 3).stack :=
  ⟨by decide, fun k hk => State.getD_set_ne (stacked 3) _ (Nat.ne_of_lt hk), by decide⟩

/-- The empty stack, one entry, and the full stack. -/
theorem witness_ReturnPopsOrUnderflows :
    (stacked 0).sp = 0 ∧ (stacked 1).sp = 0 + 1 ∧ (stacked 16).sp = 15 + 1 := by decide

/-- The full stack, the empty one, and one with one entry free. -/
theorem witness_CallPushesOrOverflows :
    (stacked 16).sp = (stacked 16).params.stackDepth ∧
      ((stacked 0).StackInv ∧ (stacked 0).sp < (stacked 0).params.stackDepth) ∧
      ((stacked 15).StackInv ∧ (stacked 15).sp < (stacked 15).params.stackDepth) :=
  ⟨rfl, ⟨stacked_inv (by decide), by decide⟩, ⟨stacked_inv (by decide), by decide⟩⟩

theorem witness_ReturnUndoesCall :
    (stacked 15).StackInv ∧ (stacked 15).sp < (stacked 15).params.stackDepth :=
  ⟨stacked_inv (by decide), by decide⟩

theorem witness_RegisterSkips : (0#4 : Nibble) = 0#4 ∧ (1#4 : Nibble) ≠ 0#4 := by decide

theorem witness_RandomIsMaskedByImmediate : (0x0F#8)[(7 : Fin 8)] = false := by decide

theorem witness_BcdStoresThreeDigits :
    ∀ k : Fin 3, busAddr 0x0003#16 ≠ busAddr (indirect (State.reset.setI 0xFFFF#16) k.val) := by decide

/-- With X = 15 the registers cover 16 addresses, past the end of memory too. -/
theorem witness_StoreRegistersFromIndex :
    (∀ r : Reg, r.toNat ≤ (15#4 : Reg).toNat) ∧
      ∀ r : Reg, r.toNat ≤ (15#4 : Reg).toNat →
        busAddr 0x0008#16 ≠ busAddr (indirect (State.reset.setI 0x0FF8#16) r.toNat) := by decide

/-- FX55 with X = 15 and FX33, each landing on both bytes of the next word, across the end of memory. -/
theorem witness_StoredCodeIsFetchedAtOnce :
    let s := (State.reset.setPc 0x0FFF#16).setI 0xFFFE#16;
    (1#4 : Reg).toNat ≤ (15#4 : Reg).toNat ∧ (2#4 : Reg).toNat ≤ (15#4 : Reg).toNat ∧
      busAddr (indirect s 1) = busAddr s.pc ∧
      busAddr (indirect s 2) = busAddr (s.pc + 1#16) := by decide

/-- Coordinates in V[0] and V[1], a sprite byte that covers the pixel at the origin, and no pixel on. -/
theorem witness_DrawingTwiceRestoresTheDisplay :
    let s := sprite [0x80#8] 0#64 0#64 0#8 0#8
    (0#4 : Reg) ≠ vf ∧ (1#4 : Reg) ≠ vf ∧
      (∀ (c : Fin 64) (row : Fin 32),
        spriteCovers s ((s.reg 0#4).toNat % 64) ((s.reg 1#4).toNat % 32) 1 c row →
        s.pixel c row = false) ∧
      spriteCovers s ((s.reg 0#4).toNat % 64) ((s.reg 1#4).toNat % 32) 1 0 0 := by
  refine ⟨by decide, by decide, ?_, ⟨0, 0, by decide, by decide, by decide, by decide, by decide⟩⟩
  have h : ∀ (c : Fin 64) (row : Fin 32), (sprite [0x80#8] 0#64 0#64 0#8 0#8).pixel c row = false := by
    have e : (sprite [0x80#8] 0#64 0#64 0#8 0#8).fb = Vector.replicate 32 0#64 := by decide
    intro c row
    simp [State.pixel, e]
  exact fun c row _ => h c row

theorem witness_KeyReadPolls :
    (State.reset.waitKey = none ∧ ∀ k : Key, State.reset.keyDown k = false) ∧
    (let s := State.reset.setKeys 0x0210#16;
      s.waitKey = none ∧ s.keyDown 4 = true ∧ ∀ j : Key, j < 4 → s.keyDown j = false) ∧
    (let s := (State.reset.setKeys 0x0010#16).setWaitKey (some 4);
      s.waitKey = some 4 ∧ s.keyDown 4 = true) ∧
    (let s := (State.reset.setKeys 0x0200#16).setWaitKey (some 4);
      s.waitKey = some 4 ∧ s.keyDown 4 = false) := by decide

theorem witness_KeyReadCompletesOnRelease :
    let s := (ready 0xF30A [.step, .setKeys 0x0200#16, .step]).setKeys 0x0210#16
    s.fault = none ∧ s.batch = none ∧ s.pending = [.step, .setKeys 0x0200#16, .step] ∧
      decodeOp s.fetchWord = .instr (.ldVxK 3#4) ∧ s.waitKey = none ∧ s.keyDown 4 = true ∧
      (∀ j : Key, j < 4 → s.keyDown j = false) ∧ (0x0200#16).getLsbD 4 = false := by decide

end Sys2Proof.Tests
end

section
/-! What a step can do to the call stack and to the parameters (spec/00_scope.md R8, spec/10_state.md
R25): RET pops, CALL pushes, RESET starts afresh, and everything else leaves STACK, SP, STACK_DEPTH and
FONT alone. -/

namespace Sys2Proof.Machine

/-! ## The stack and the parameters kept -/

/-- From `s` to `t` the stack entries, SP and the parameters are kept. -/
def StackKept (s t : State) : Prop := t.stack = s.stack ∧ t.sp = s.sp ∧ t.params = s.params

theorem StackKept.params {s t : State} (h : StackKept s t) : t.params = s.params := h.2.2

theorem StackKept.stackInv {s t : State} (h : StackKept s t) (hs : s.StackInv) : t.StackInv := by
  obtain ⟨hstack, hsp, hparams⟩ := h
  rwa [State.StackInv, hstack, hsp, hparams]

theorem stackKept_skipIf (s : State) (c : Bool) : StackKept s (s.skipIf c) := by
  rw [State.skipIf_eq]
  exact ⟨rfl, rfl, rfl⟩

theorem stackKept_placeBytes (s : State) (a : Word) (bytes : List Byte) :
    StackKept s (s.placeBytes a bytes) := by
  rw [State.placeBytes_eq]
  exact ⟨rfl, rfl, rfl⟩

theorem stackKept_storeLoop (rs : List Reg) (s : State) : StackKept s (storeLoop rs s) := by
  rw [storeLoop_eq]
  exact stackKept_placeBytes s s.i (rs.map s.reg)

theorem stackKept_loadLoop (rs : List Reg) (s : State) : StackKept s (loadLoop rs s) := by
  rw [loadLoop_eq]
  exact ⟨rfl, rfl, rfl⟩

/-- On every branch of its poll FX0A leaves the stack alone (R241). -/
theorem execLdVxK_stackKept {x : Reg} {s t : State} (h : execLdVxK x s = .next t) :
    StackKept s t := by
  unfold execLdVxK at h
  split at h <;> split at h <;> cases h <;> exact ⟨rfl, rfl, rfl⟩

/-! ## The two instructions that move SP -/

/-- Everything RET can do (R140). -/
theorem execRet_cases {s t : State} (h : execRet s = .next t) :
    (s.sp = 0 ∧ t = s.raiseFault .stackUnderflow) ∨
    (s.sp ≠ 0 ∧ t = (s.setStack s.stack (s.sp - 1)).setPc (s.entry (s.sp - 1))) := by
  unfold execRet at h
  by_cases h0 : s.sp = 0
  · rw [State.pop_empty h0] at h
    cases h
    exact .inl ⟨h0, rfl⟩
  · rw [State.pop_used h0] at h
    cases h
    exact .inr ⟨h0, rfl⟩

/-- Everything CALL can do (R142). -/
theorem execCall_cases {nnn : BitVec 12} {s t : State} (h : execCall nnn s = .next t) :
    (s.sp = s.params.stackDepth ∧ t = s.raiseFault .stackOverflow) ∨
    (s.sp ≠ s.params.stackDepth ∧
      t = (s.setStack (s.stack.set s.sp s.pc) (s.sp + 1)).setPc (addrImm nnn)) := by
  unfold execCall at h
  by_cases hfull : s.sp = s.params.stackDepth
  · rw [State.push_full hfull] at h
    cases h
    exact .inl ⟨hfull, rfl⟩
  · rw [State.push_room hfull] at h
    cases h
    exact .inr ⟨hfull, rfl⟩

/-- Only RET and CALL touch the stack (R37). -/
theorem exec_stack_cases {i : Instr} {s t : State} (h : exec i s = .next t) :
    execRet s = .next t ∨ (∃ nnn : BitVec 12, execCall nnn s = .next t) ∨ StackKept s t := by
  cases i
  case ret => exact .inl h
  case call nnn => exact .inr (.inl ⟨nnn, h⟩)
  all_goals refine .inr (.inr ?_)
  case ldVxK x => exact execLdVxK_stackKept h
  all_goals cases h
  case seImm | sneImm | seReg | sneReg | skp | sknp => exact stackKept_skipIf s _
  case ldB x => exact stackKept_placeBytes s _ _
  case storeRegs x => exact stackKept_storeLoop _ s
  case loadRegs x => exact stackKept_loadLoop _ s
  all_goals exact ⟨rfl, rfl, rfl⟩

/-! ## The parameters -/

theorem exec_params {i : Instr} {s t : State} (h : exec i s = .next t) : t.params = s.params := by
  obtain hret | ⟨nnn, hcall⟩ | hkept := exec_stack_cases h
  · obtain ⟨-, rfl⟩ | ⟨-, rfl⟩ := execRet_cases hret <;> rfl
  · obtain ⟨-, rfl⟩ | ⟨-, rfl⟩ := execCall_cases hcall <;> rfl
  · exact hkept.params

theorem cycle_params {s t : State} (h : cycle s = .next t) : t.params = s.params := by
  obtain ⟨-, rfl⟩ | ⟨-, i, -, hexec⟩ | ⟨-, f, -, rfl⟩ := cycle_cases h
  · rfl
  · exact (exec_params hexec).trans (State.advance_params s)
  · rfl

/-! ## The stack within its depth -/

/-- RET takes one entry out of use, or faults (R140). -/
theorem execRet_stackInv {s t : State} (hs : s.StackInv) (h : execRet s = .next t) : t.StackInv := by
  obtain ⟨-, rfl⟩ | ⟨-, rfl⟩ := execRet_cases h
  · exact hs
  · obtain ⟨hwf, hlen, hsp⟩ := hs
    exact ⟨hwf, hlen, (Nat.sub_le s.sp 1).trans hsp⟩

/-- CALL pushes only where an entry is free, so SP stays within the depth (R142, D5). -/
theorem execCall_stackInv {nnn : BitVec 12} {s t : State} (hs : s.StackInv)
    (h : execCall nnn s = .next t) : t.StackInv := by
  obtain ⟨-, rfl⟩ | ⟨hroom, rfl⟩ := execCall_cases h
  · exact hs
  · obtain ⟨hwf, hlen, hsp⟩ := hs
    exact ⟨hwf, List.length_set.trans hlen, Nat.lt_of_le_of_ne hsp hroom⟩

theorem exec_stackInv {i : Instr} {s t : State} (hs : s.StackInv) (h : exec i s = .next t) :
    t.StackInv := by
  obtain hret | ⟨nnn, hcall⟩ | hkept := exec_stack_cases h
  · exact execRet_stackInv hs hret
  · exact execCall_stackInv hs hcall
  · exact hkept.stackInv hs

theorem cycle_stackInv {s t : State} (hs : s.StackInv) (h : cycle s = .next t) : t.StackInv := by
  obtain ⟨-, rfl⟩ | ⟨-, i, -, hexec⟩ | ⟨-, f, -, rfl⟩ := cycle_cases h
  · exact hs
  · exact exec_stackInv (s := s.advance) hs hexec
  · exact hs

/-- RESET leaves an empty stack of `STACK_DEPTH` entries, whatever the image (R36). -/
theorem resetWith_stackInv {p : Config.Params} (image : List Byte) (hp : p.wellFormed = true) :
    (resetWith p image).StackInv :=
  ⟨hp, List.length_replicate, Nat.zero_le _⟩

/-- Settles O28: a cycle moves SP within the depth, RESET makes the stack anew from the kept
parameters, and every other move of the host leaves the stack alone. -/
theorem stepKeepsStackWithinDepth : Obligations.StepKeepsStackWithinDepth := by
  unfold Obligations.StepKeepsStackWithinDepth
  intro s t hs h
  obtain ⟨-, -, rfl⟩ | ⟨-, -, rfl⟩ | ⟨-, t', b, l, hcycle, rfl⟩ | ⟨-, image, rest, -, -, rfl⟩ |
    ⟨-, k, rest, -, rfl⟩ | ⟨-, n, rest, -, rfl⟩ := step_cases h
  · exact hs
  · exact hs
  · exact cycle_stackInv (t := t') hs hcycle
  · obtain ⟨hwf, -, -⟩ := hs
    exact resetWith_stackInv image hwf
  · exact hs
  · exact hs

/-- Settles O29: no instruction writes the parameters, and RESET starts from those it finds. -/
theorem stepKeepsTheParameters : Obligations.StepKeepsTheParameters := by
  unfold Obligations.StepKeepsTheParameters
  intro s t h
  obtain ⟨-, -, rfl⟩ | ⟨-, -, rfl⟩ | ⟨-, t', b, l, hcycle, rfl⟩ | ⟨-, image, rest, -, -, rfl⟩ |
    ⟨-, k, rest, -, rfl⟩ | ⟨-, n, rest, -, rfl⟩ := step_cases h
  · rfl
  · rfl
  · exact cycle_params (t := t') hcycle
  · rfl
  · rfl
  · rfl

end Sys2Proof.Machine
end

section
/-! How the delay timer, the sound timer and the key latch change (spec/10_state.md R26 to R28): the
tick, FX15, FX18, FX0A's tone, SETKEYS and RESET, and nothing else. -/

namespace Sys2Proof.Machine

/-! ## What FX0A can do -/

theorem execLdVxK_scan_down {s : State} {k : Key} (x : Reg) (hwait : s.waitKey = none)
    (hfirst : s.firstKeyDown = some k) :
    execLdVxK x s = .next (s.setWaitKey (some k)).rewind := by
  simp only [execLdVxK, hwait, hfirst]

theorem execLdVxK_scan_up {s : State} (x : Reg) (hwait : s.waitKey = none)
    (hfirst : s.firstKeyDown = none) : execLdVxK x s = .next s.rewind := by
  simp only [execLdVxK, hwait, hfirst]

theorem execLdVxK_awaited_down {s : State} {k : Key} (x : Reg) (hwait : s.waitKey = some k)
    (hdown : s.keyDown k = true) :
    execLdVxK x s = .next (s.setSt Config.keywaitTone).rewind := by
  simp only [execLdVxK, hwait, hdown, if_true]

theorem execLdVxK_awaited_up {s : State} {k : Key} (x : Reg) (hwait : s.waitKey = some k)
    (hup : s.keyDown k = false) :
    execLdVxK x s = .next ((s.setReg x (keyByte k)).setWaitKey none) := by
  simp only [execLdVxK, hwait, hup, Bool.false_eq_true, if_false]

/-- Everything one poll of FX0A can do (R241, R242): latch the lowest key down, wait for one, hold the
tone while the latched key is down, or complete once it is up. -/
theorem execLdVxK_cases {x : Reg} {s t : State} (h : execLdVxK x s = .next t) :
    (∃ k : Key, s.waitKey = none ∧ s.firstKeyDown = some k ∧
      t = (s.setWaitKey (some k)).rewind) ∨
    (s.waitKey = none ∧ s.firstKeyDown = none ∧ t = s.rewind) ∨
    (∃ k : Key, s.waitKey = some k ∧ s.keyDown k = true ∧
      t = (s.setSt Config.keywaitTone).rewind) ∨
    (∃ k : Key, s.waitKey = some k ∧ s.keyDown k = false ∧
      t = (s.setReg x (keyByte k)).setWaitKey none) := by
  cases hwait : s.waitKey with
  | none =>
    cases hfirst : s.firstKeyDown with
    | none =>
      cases (execLdVxK_scan_up x hwait hfirst).symm.trans h
      exact .inr (.inl ⟨rfl, rfl, rfl⟩)
    | some k =>
      cases (execLdVxK_scan_down x hwait hfirst).symm.trans h
      exact .inl ⟨k, rfl, rfl, rfl⟩
  | some k =>
    cases hdown : s.keyDown k with
    | true =>
      cases (execLdVxK_awaited_down x hwait hdown).symm.trans h
      exact .inr (.inr (.inl ⟨k, rfl, hdown, rfl⟩))
    | false =>
      cases (execLdVxK_awaited_up x hwait hdown).symm.trans h
      exact .inr (.inr (.inr ⟨k, rfl, hdown, rfl⟩))

/-! ## The timers and the key latch kept -/

/-- From `s` to `t` both timers and the key latch are kept. -/
def TimersKeysKept (s t : State) : Prop := t.dt = s.dt ∧ t.st = s.st ∧ t.keys = s.keys

theorem timersKeysKept_skipIf (s : State) (c : Bool) : TimersKeysKept s (s.skipIf c) := by
  rw [State.skipIf_eq]
  exact ⟨rfl, rfl, rfl⟩

theorem timersKeysKept_placeBytes (s : State) (a : Word) (bytes : List Byte) :
    TimersKeysKept s (s.placeBytes a bytes) := by
  rw [State.placeBytes_eq]
  exact ⟨rfl, rfl, rfl⟩

theorem timersKeysKept_storeLoop (rs : List Reg) (s : State) :
    TimersKeysKept s (storeLoop rs s) := by
  rw [storeLoop_eq]
  exact timersKeysKept_placeBytes s s.i (rs.map s.reg)

theorem timersKeysKept_loadLoop (rs : List Reg) (s : State) :
    TimersKeysKept s (loadLoop rs s) := by
  rw [loadLoop_eq]
  exact ⟨rfl, rfl, rfl⟩

theorem execRet_timersKeysKept {s t : State} (h : execRet s = .next t) : TimersKeysKept s t := by
  obtain ⟨-, rfl⟩ | ⟨-, rfl⟩ := execRet_cases h <;> exact ⟨rfl, rfl, rfl⟩

theorem execCall_timersKeysKept {nnn : BitVec 12} {s t : State} (h : execCall nnn s = .next t) :
    TimersKeysKept s t := by
  obtain ⟨-, rfl⟩ | ⟨-, rfl⟩ := execCall_cases h <;> exact ⟨rfl, rfl, rfl⟩

/-! ## The instructions that move a timer -/

/-- Only FX15, FX18 and the tone of FX0A move a timer, and no instruction moves the key latch (R37). -/
theorem exec_timersKeys_cases {i : Instr} {s t : State} (h : exec i s = .next t) :
    TimersKeysKept s t ∨
    (∃ x : Reg, i = .ldDtVx x ∧ t = s.setDt (s.reg x)) ∨
    (∃ x : Reg, i = .ldStVx x ∧ t = s.setSt (s.reg x)) ∨
    (∃ (x : Reg) (k : Key), i = .ldVxK x ∧ s.waitKey = some k ∧ s.keyDown k = true ∧
      t = (s.setSt Config.keywaitTone).rewind) := by
  cases i
  case ldDtVx x =>
    cases h
    exact .inr (.inl ⟨x, rfl, rfl⟩)
  case ldStVx x =>
    cases h
    exact .inr (.inr (.inl ⟨x, rfl, rfl⟩))
  case ldVxK x =>
    obtain ⟨k, -, -, rfl⟩ | ⟨-, -, rfl⟩ | ⟨k, hwait, hdown, rfl⟩ | ⟨k, -, -, rfl⟩ :=
      execLdVxK_cases h
    · exact .inl ⟨rfl, rfl, rfl⟩
    · exact .inl ⟨rfl, rfl, rfl⟩
    · exact .inr (.inr (.inr ⟨x, k, rfl, hwait, hdown, rfl⟩))
    · exact .inl ⟨rfl, rfl, rfl⟩
  all_goals refine .inl ?_
  case ret => exact execRet_timersKeysKept h
  case call nnn => exact execCall_timersKeysKept h
  all_goals cases h
  case seImm | sneImm | seReg | sneReg | skp | sknp => exact timersKeysKept_skipIf s _
  case ldB x => exact timersKeysKept_placeBytes s _ _
  case storeRegs x => exact timersKeysKept_storeLoop _ s
  case loadRegs x => exact timersKeysKept_loadLoop _ s
  all_goals exact ⟨rfl, rfl, rfl⟩

/-- Every instruction but FX18 and FX0A leaves ST alone (R27). -/
theorem exec_st {i : Instr} {s t : State} (h : exec i s = .next t)
    (hload : ∀ x : Reg, i ≠ .ldStVx x) (hkey : ∀ x : Reg, i ≠ .ldVxK x) : t.st = s.st := by
  obtain ⟨-, hst, -⟩ | ⟨x, -, rfl⟩ | ⟨x, hi, -⟩ | ⟨x, k, hi, -, -, -⟩ := exec_timersKeys_cases h
  · exact hst
  · rfl
  · exact absurd hi (hload x)
  · exact absurd hi (hkey x)

/-- What a cycle does to the timers and the key latch, told by the word it fetches. -/
theorem cycle_timersKeys_cases {s t : State} (h : cycle s = .next t) :
    TimersKeysKept s t ∨
    (∃ x : Reg, decodeOp s.fetchWord = .instr (.ldDtVx x) ∧ t = s.advance.setDt (s.reg x)) ∨
    (∃ x : Reg, decodeOp s.fetchWord = .instr (.ldStVx x) ∧ t = s.advance.setSt (s.reg x)) ∨
    (∃ (x : Reg) (k : Key), decodeOp s.fetchWord = .instr (.ldVxK x) ∧ s.waitKey = some k ∧
      s.keyDown k = true ∧ t = (s.advance.setSt Config.keywaitTone).rewind) := by
  obtain ⟨-, rfl⟩ | ⟨-, i, hi, hexec⟩ | ⟨-, f, -, rfl⟩ := cycle_cases h
  · exact .inl ⟨rfl, rfl, rfl⟩
  · obtain hkept | ⟨x, rfl, ht⟩ | ⟨x, rfl, ht⟩ | ⟨x, k, rfl, hwait, hdown, ht⟩ :=
      exec_timersKeys_cases hexec
    · exact .inl hkept
    · exact .inr (.inl ⟨x, hi, ht⟩)
    · exact .inr (.inr (.inl ⟨x, hi, ht⟩))
    · exact .inr (.inr (.inr ⟨x, k, hi, hwait, hdown, ht⟩))
  · exact .inl ⟨rfl, rfl, rfl⟩

theorem cycle_keys {s t : State} (h : cycle s = .next t) : t.keys = s.keys := by
  obtain ⟨-, -, hkeys⟩ | ⟨x, -, rfl⟩ | ⟨x, -, rfl⟩ | ⟨x, k, -, -, -, rfl⟩ :=
    cycle_timersKeys_cases h
  · exact hkeys
  all_goals rfl

/-! ## The three statements about steps -/

/-- A tick that changes a timer lowers it by one (R231). -/
theorem tickByte_toNat_of_ne {b : Byte} (h : tickByte b ≠ b) : (tickByte b).toNat + 1 = b.toNat := by
  unfold tickByte at h ⊢
  split at h
  · rename_i hzero
    exact absurd hzero.symm h
  · rename_i hne
    rw [if_neg hne]
    bv_omega

/-- Settles O18: of what a step can do only the tick, RESET and a cycle reach DT, and of what a cycle
can do only FX15. -/
theorem delayTimerMovesOnlyAtBatchEnd : Obligations.DelayTimerMovesOnlyAtBatchEnd := by
  unfold Obligations.DelayTimerMovesOnlyAtBatchEnd
  intro s t h hne
  obtain ⟨-, -, rfl⟩ | ⟨hf, hb, rfl⟩ | ⟨hruns, t', b, l, hcycle, rfl⟩ |
    ⟨hb, image, rest, hp, -, -⟩ | ⟨-, k, rest, -, rfl⟩ | ⟨-, n, rest, -, rfl⟩ := step_cases h
  · exact absurd rfl hne
  · exact .inl ⟨hb, hf, tickByte_toNat_of_ne hne⟩
  · obtain ⟨hdt, -, -⟩ | ⟨x, hd, rfl⟩ | ⟨x, -, rfl⟩ | ⟨x, k, -, -, -, rfl⟩ :=
      cycle_timersKeys_cases hcycle
    · exact absurd hdt hne
    · exact .inr (.inl ⟨hruns, x, hd, rfl⟩)
    · exact absurd rfl hne
    · exact absurd rfl hne
  · exact .inr (.inr ⟨hb, image, rest, hp⟩)
  · exact absurd rfl hne
  · exact absurd rfl hne

/-- Settles O19: as for the delay timer, with FX18 and the tone of FX0A the causes within a cycle. -/
theorem soundTimerMovesOnlyByItsOwnCauses : Obligations.SoundTimerMovesOnlyByItsOwnCauses := by
  unfold Obligations.SoundTimerMovesOnlyByItsOwnCauses
  intro s t h hne
  obtain ⟨-, -, rfl⟩ | ⟨hf, hb, rfl⟩ | ⟨hruns, t', b, l, hcycle, rfl⟩ |
    ⟨hb, image, rest, hp, -, -⟩ | ⟨-, k, rest, -, rfl⟩ | ⟨-, n, rest, -, rfl⟩ := step_cases h
  · exact absurd rfl hne
  · exact .inl ⟨hb, hf, tickByte_toNat_of_ne hne⟩
  · obtain ⟨-, hst, -⟩ | ⟨x, -, rfl⟩ | ⟨x, hd, rfl⟩ | ⟨x, k, hd, hwait, hdown, rfl⟩ :=
      cycle_timersKeys_cases hcycle
    · exact absurd hst hne
    · exact absurd rfl hne
    · exact .inr (.inl ⟨hruns, x, hd, rfl⟩)
    · exact .inr (.inr (.inl ⟨hruns, x, k, hd, hwait, hdown, rfl⟩))
  · exact .inr (.inr (.inr ⟨hb, image, rest, hp⟩))
  · exact absurd rfl hne
  · exact absurd rfl hne

/-- Settles O20: no cycle and no tick moves the key latch, so what remains is SETKEYS and RESET. -/
theorem keyLatchChangesOnlyBetweenBatches : Obligations.KeyLatchChangesOnlyBetweenBatches := by
  unfold Obligations.KeyLatchChangesOnlyBetweenBatches
  intro s t h hne
  obtain ⟨-, -, rfl⟩ | ⟨-, -, rfl⟩ | ⟨-, t', b, l, hcycle, rfl⟩ |
    ⟨hb, image, rest, hp, -, rfl⟩ | ⟨hb, k, rest, hp, rfl⟩ | ⟨-, n, rest, -, rfl⟩ := step_cases h
  · exact absurd rfl hne
  · exact absurd rfl hne
  · exact absurd (cycle_keys hcycle) hne
  · exact ⟨hb, rest, .inr ⟨image, hp, rfl⟩⟩
  · exact ⟨hb, rest, .inl ⟨k, hp, rfl⟩⟩
  · exact absurd rfl hne

end Sys2Proof.Machine
end

section
/-! What a flag instruction leaves in VF (spec/10_state.md R21). -/

namespace Sys2Proof.Machine

theorem flagByte_eq_zero_or_one (c : Bool) : flagByte c = 0#8 ∨ flagByte c = 1#8 := by
  cases c
  · exact .inl rfl
  · exact .inr rfl

/-- The flag is written last, so VF holds it whatever the destination (R161, D3). -/
theorem exec_reg_vf_of_setsFlag {i : Instr} {s t : State} (hflag : i.setsFlag = true)
    (h : exec i s = .next t) : ∃ c : Bool, t.reg vf = flagByte c := by
  cases i
  case orReg | andReg | xorReg | addReg | subReg | shrReg | subnReg | shlReg | drw =>
    cases h
    exact ⟨_, State.reg_setReg_same _ vf _⟩
  all_goals cases hflag

/-- Settles O25: VF holds a flag byte, and a flag byte is 0 or 1. -/
theorem flagInstructionsLeaveZeroOrOne : Obligations.FlagInstructionsLeaveZeroOrOne := by
  unfold Obligations.FlagInstructionsLeaveZeroOrOne
  intro i s t hflag h
  obtain ⟨c, hc⟩ := exec_reg_vf_of_setsFlag hflag h
  rw [hc]
  exact flagByte_eq_zero_or_one c

end Sys2Proof.Machine
end

section
/-! What no instruction reads: the sound timer (spec/10_state.md R27) and the stack entries at SP and
above (R25). -/

namespace Sys2Proof.Machine

/-! ## The state with its unread parts replaced -/

/-- `s` with another ST and other stack entries. -/
def State.withStStack (s : State) (b : Byte) (entries : List Word) : State :=
  (s.setSt b).setStack entries s.sp

section
variable (s : State) (b : Byte) (entries : List Word)

theorem skipIf_withStStack (c : Bool) :
    (s.withStStack b entries).skipIf c = (s.skipIf c).withStStack b entries := by
  cases c <;> rfl

theorem placeBytes_withStStack (a : Word) (bytes : List Byte) :
    (s.withStStack b entries).placeBytes a bytes = (s.placeBytes a bytes).withStStack b entries := by
  induction bytes generalizing s a with
  | nil => rfl
  | cons c rest ih => exact ih (s.memWrite a c) (a + 1#16)

theorem storeLoop_withStStack (rs : List Reg) :
    storeLoop rs (s.withStStack b entries) = (storeLoop rs s).withStStack b entries := by
  induction rs generalizing s with
  | nil => rfl
  | cons r rest ih => exact ih ((s.memWrite s.i (s.reg r)).setI (s.i + 1#16))

theorem loadLoop_withStStack (rs : List Reg) :
    loadLoop rs (s.withStStack b entries) = (loadLoop rs s).withStStack b entries := by
  induction rs generalizing s with
  | nil => rfl
  | cons r rest ih => exact ih ((s.setReg r (s.memRead s.i)).setI (s.i + 1#16))

theorem execDrw_withStStack {x y : Reg} {n : Nibble} {t : State} (h : execDrw x y n s = .next t) :
    execDrw x y n (s.withStStack b entries) = .next (t.withStStack b entries) := by
  cases h
  unfold execDrw
  rw [drawRows_congr (s := s) (s' := s.withStStack b entries) rfl fun _ => rfl]
  rfl

/-- FX0A polls alike; where it sets the tone the ST it found is lost (R242). -/
theorem execLdVxK_withStStack {x : Reg} {t : State} (h : execLdVxK x s = .next t) :
    ∃ c : Byte, (b = s.st → c = t.st) ∧
      execLdVxK x (s.withStStack b entries) = .next (t.withStStack c entries) := by
  obtain ⟨k, hwait, hfirst, rfl⟩ | ⟨hwait, hfirst, rfl⟩ | ⟨k, hwait, hdown, rfl⟩ |
    ⟨k, hwait, hup, rfl⟩ := execLdVxK_cases h
  · exact ⟨b, id, execLdVxK_scan_down (s := s.withStStack b entries) x hwait hfirst⟩
  · exact ⟨b, id, execLdVxK_scan_up (s := s.withStStack b entries) x hwait hfirst⟩
  · exact ⟨Config.keywaitTone, fun _ => rfl,
      execLdVxK_awaited_down (s := s.withStStack b entries) x hwait hdown⟩
  · exact ⟨b, id, execLdVxK_awaited_up (s := s.withStStack b entries) x hwait hup⟩

/-- Every instruction but RET and CALL runs alike whatever ST and the stack entries hold, and leaves
the stack; ST it keeps or sets to a value that rests on neither. -/
theorem exec_withStStack_cases {i : Instr} {t : State} (h : exec i s = .next t) :
    i = .ret ∨ (∃ nnn : BitVec 12, i = .call nnn) ∨
    ∃ c : Byte, (b = s.st → c = t.st) ∧ StackKept s t ∧
      exec i (s.withStStack b entries) = .next (t.withStStack c entries) := by
  cases i
  case ret => exact .inl rfl
  case call nnn => exact .inr (.inl ⟨nnn, rfl⟩)
  all_goals refine .inr (.inr ?_)
  case ldVxK x =>
    obtain ⟨c, hc, hrun⟩ := execLdVxK_withStStack s b entries h
    exact ⟨c, hc, execLdVxK_stackKept h, hrun⟩
  case ldStVx x =>
    cases h
    exact ⟨s.reg x, fun _ => rfl, ⟨rfl, rfl, rfl⟩, rfl⟩
  all_goals refine ⟨b, fun hb => hb.trans (exec_st h (fun _ => nofun) (fun _ => nofun)).symm, ?_⟩
  case drw x y n =>
    have hrun := execDrw_withStStack s b entries h
    cases h
    exact ⟨⟨rfl, rfl, rfl⟩, hrun⟩
  all_goals cases h
  case seImm | sneImm | seReg | sneReg | skp | sknp =>
    exact ⟨stackKept_skipIf s _, congrArg Host.Outcome.next (skipIf_withStStack s b entries _)⟩
  case ldB x =>
    exact ⟨stackKept_placeBytes s _ _,
      congrArg Host.Outcome.next (placeBytes_withStStack s b entries _ _)⟩
  case storeRegs x =>
    exact ⟨stackKept_storeLoop _ s,
      congrArg Host.Outcome.next (storeLoop_withStStack s b entries _)⟩
  case loadRegs x =>
    exact ⟨stackKept_loadLoop _ s,
      congrArg Host.Outcome.next (loadLoop_withStStack s b entries _)⟩
  all_goals exact ⟨⟨rfl, rfl, rfl⟩, rfl⟩

end

/-! ## The entries in use -/

/-- The entries in use of `s` are those of the array `entries` (R25). -/
def State.UsesEntries (s : State) (entries : List Word) : Prop :=
  ∀ k : Nat, k < s.sp → entries.getD k 0#16 = s.entry k

theorem State.usesEntries_stack (s : State) : s.UsesEntries s.stack := fun _ _ => rfl

section
variable {s t : State} {entries : List Word} (b : Byte)

/-- RET reads the top entry in use and writes none (R140). -/
theorem execRet_withStStack (huse : s.UsesEntries entries) (h : execRet s = .next t) :
    execRet (s.withStStack b entries) = .next (t.withStStack b entries) ∧ t.st = s.st ∧
      t.stack = s.stack ∧ t.UsesEntries entries := by
  unfold execRet
  obtain ⟨hempty, rfl⟩ | ⟨hused, rfl⟩ := execRet_cases h
  · rw [State.pop_empty (s := s.withStStack b entries) hempty]
    exact ⟨rfl, rfl, rfl, huse⟩
  · have htop : (s.withStStack b entries).entry (s.sp - 1) = s.entry (s.sp - 1) :=
      huse (s.sp - 1) (Nat.sub_one_lt hused)
    rw [State.pop_used (s := s.withStStack b entries) hused, ← htop]
    exact ⟨rfl, rfl, rfl, fun k hk => huse k (Nat.lt_of_lt_pred hk)⟩

/-- The array after a push into it: the entry pushed is the same whatever lay there before (R142). -/
theorem usesEntries_push (a : Word) (hlen : entries.length = s.stack.length)
    (huse : s.UsesEntries entries) :
    (s.setStack (s.stack.set s.sp a) (s.sp + 1)).UsesEntries (entries.set s.sp a) := by
  intro k hk
  rw [State.entry_setStack]
  obtain hlt | rfl := Nat.lt_succ_iff_lt_or_eq.mp hk
  · rw [State.getD_set_ne s a hlt.ne, ← huse k hlt]
    exact State.getD_set_ne (s.setStack entries s.sp) a hlt.ne
  · simp only [List.getD_eq_getElem?_getD, List.getElem?_set, hlen, if_true]

/-- CALL pushes the same return address into either array (R142). -/
theorem execCall_withStStack {nnn : BitVec 12} (hlen : entries.length = s.stack.length)
    (huse : s.UsesEntries entries) (h : execCall nnn s = .next t) :
    ∃ entries' : List Word,
      execCall nnn (s.withStStack b entries) = .next (t.withStStack b entries') ∧
      t.st = s.st ∧ (entries = s.stack → entries' = t.stack) ∧ t.UsesEntries entries' := by
  unfold execCall
  obtain ⟨hfull, rfl⟩ | ⟨hroom, rfl⟩ := execCall_cases h
  · rw [State.push_full (s := s.withStStack b entries) hfull]
    exact ⟨entries, rfl, rfl, id, huse⟩
  · rw [State.push_room (s := s.withStStack b entries) hroom]
    exact ⟨entries.set s.sp s.pc, rfl, rfl, fun he => by rw [he]; rfl,
      usesEntries_push s.pc hlen huse⟩

/-- Every instruction runs alike whatever ST and the stack entries at SP and above hold: what was
replaced before it is all that may differ after it. -/
theorem exec_withStStack {i : Instr} (hlen : entries.length = s.stack.length)
    (huse : s.UsesEntries entries) (h : exec i s = .next t) :
    ∃ (c : Byte) (entries' : List Word),
      exec i (s.withStStack b entries) = .next (t.withStStack c entries') ∧
      (b = s.st → c = t.st) ∧ (entries = s.stack → entries' = t.stack) ∧
      t.UsesEntries entries' := by
  obtain rfl | ⟨nnn, rfl⟩ | ⟨c, hc, hkept, hrun⟩ := exec_withStStack_cases s b entries h
  · obtain ⟨hrun, hst, hstack, huse'⟩ := execRet_withStStack b huse h
    exact ⟨b, entries, hrun, (·.trans hst.symm), (·.trans hstack.symm), huse'⟩
  · obtain ⟨entries', hrun, hst, hstack, huse'⟩ := execCall_withStStack b hlen huse h
    exact ⟨b, entries', hrun, (·.trans hst.symm), hstack, huse'⟩
  · obtain ⟨hstack, hsp, -⟩ := hkept
    refine ⟨c, entries, hrun, hc, (·.trans hstack.symm), fun k hk => ?_⟩
    rw [hsp] at hk
    rw [State.entry, hstack]
    exact huse k hk

end

/-! ## The two statements -/

theorem keptBut_setSt (s : State) (b : Byte) : KeptBut [.st] s (s.setSt b) := by
  intro p hp
  cases p
  case st => exact absurd (.head _) hp
  case v | mem => exact fun _ => rfl
  all_goals rfl

theorem keptBut_setStack (s : State) (entries : List Word) :
    KeptBut [.stack] s (s.setStack entries s.sp) := by
  intro p hp
  cases p
  case stack => exact absurd (.head _) hp
  case v | mem => exact fun _ => rfl
  all_goals rfl

/-- Settles O31: with the stack as it was, a replaced ST is all that may differ afterwards. -/
theorem soundTimerIsNeverRead : Obligations.SoundTimerIsNeverRead := by
  unfold Obligations.SoundTimerIsNeverRead
  intro i s b
  obtain ⟨t, ht⟩ := exec_next i s
  obtain ⟨c, entries, hrun, -, hentries, -⟩ := exec_withStStack b rfl s.usesEntries_stack ht
  rw [hentries rfl] at hrun
  exact ⟨t, t.setSt c, ht, hrun, keptBut_setSt t c⟩

/-- Settles O32: with ST as it was, replaced entries at SP and above are all that may differ
afterwards. -/
theorem unusedStackEntriesAreNeverRead : Obligations.UnusedStackEntriesAreNeverRead := by
  unfold Obligations.UnusedStackEntriesAreNeverRead
  intro i s other hlen huse
  obtain ⟨t, ht⟩ := exec_next i s
  obtain ⟨c, entries, hrun, hst, -, huse'⟩ := exec_withStStack s.st hlen huse ht
  rw [hst rfl] at hrun
  exact ⟨t, t.setStack entries t.sp, ht, hrun, keptBut_setStack t entries, huse'⟩

end Sys2Proof.Machine
end

section
/-! The memory bus and what goes through it (spec/20_memory.md): an address counts modulo 4096, a
write reaches one byte, RESET loads image and font, and a fetch reads what an instruction has stored. -/

namespace Sys2Proof.Machine

/-! ## The bus -/

/-- A read looks at the bus address alone (R61). -/
theorem State.memRead_of_busAddr_eq (s : State) {a c : Word} (h : busAddr a = busAddr c) :
    s.memRead a = s.memRead c := congrArg (memLookup s.params.font s.mem) h

/-- A write looks at the bus address alone (R61). -/
theorem State.memWrite_of_busAddr_eq (s : State) {a c : Word} (b : Byte)
    (h : busAddr a = busAddr c) : s.memWrite a b = s.memWrite c b := by
  simp only [State.memWrite, h]

theorem keptBut_memWrite (s : State) (a : Word) (b : Byte) :
    KeptBut [.mem] s (s.memWrite a b) := by
  intro p hp
  cases p
  case mem => exact absurd (.head _) hp
  case v => exact State.reg_memWrite s a b
  all_goals rfl

/-- Settles O6: addresses equal modulo 4096 have one bus address. -/
theorem addressesWrapModuloMemorySize : Obligations.AddressesWrapModuloMemorySize := by
  unfold Obligations.AddressesWrapModuloMemorySize
  intro s a c b h
  exact ⟨s.memRead_of_busAddr_eq h, s.memWrite_of_busAddr_eq b h⟩

/-- Settles O7: the law of a read after a write, with the frame of the write. -/
theorem writeSetsOneByteOnly : Obligations.WriteSetsOneByteOnly := by
  unfold Obligations.WriteSetsOneByteOnly
  intro s a c b
  exact ⟨s.memRead_memWrite a c b, keptBut_memWrite s a b⟩

/-! ## The image -/

/-- What a lookup answers after an image has been loaded from bus address `k` on (R69). -/
theorem memLookup_storeBytes (font : Config.Font) (bytes : List Byte) (m : Memory) (k j : Nat) :
    memLookup font (storeBytes font m k bytes) j =
      if k ≤ j ∧ j < k + bytes.length then bytes.getD (j - k) 0#8 else memLookup font m j := by
  induction bytes generalizing m k with
  | nil => exact (if_neg fun ⟨hle, hlt⟩ => Nat.not_lt_of_le hle hlt).symm
  | cons b rest ih =>
    rw [storeBytes, ih, memLookup_memStore, List.length_cons]
    obtain hlt | rfl | hgt := Nat.lt_trichotomy j k
    · rw [if_neg (by omega), if_neg (by omega), if_neg (by omega)]
    · simp
    · have hsub : j - k = j - (k + 1) + 1 := by omega
      have hiff : (k + 1 ≤ j ∧ j < k + 1 + rest.length) ↔
          (k ≤ j ∧ j < k + (rest.length + 1)) := by omega
      rw [if_neg hgt.ne', hsub, List.getD_cons_succ]
      exact if_congr hiff rfl rfl

/-- Settles O10: below 4096 an address is its own bus address, the image covers what it reaches, and
under it lies what an unlisted address reads as. -/
theorem resetFillsMemoryAsMapped : Obligations.ResetFillsMemoryAsMapped := by
  unfold Obligations.ResetFillsMemoryAsMapped
  intro p image a _ ha
  have hbus : busAddr a = a.toNat := Nat.mod_eq_of_lt ha
  have hread : (resetWith p image).memRead a =
      memLookup p.font (storeBytes p.font [] Config.progBase image) (busAddr a) := rfl
  rw [hread, hbus, memLookup_storeBytes]
  rfl

/-! ## The fetch -/

/-- The fetched word is big-endian (R63, R121). -/
theorem State.fetchWord_toNat (s : State) :
    s.fetchWord.toNat = (s.memRead s.pc).toNat * 256 + (s.memRead (s.pc + 1#16)).toNat := by
  have hlow := (s.memRead (s.pc + 1#16)).isLt
  rw [State.fetchWord, BitVec.toNat_append, ← Nat.shiftLeft_add_eq_or_of_lt hlow, Nat.shiftLeft_eq]

theorem State.fetchWord_div (s : State) : s.fetchWord.toNat / 256 = (s.memRead s.pc).toNat := by
  have hlow := (s.memRead (s.pc + 1#16)).isLt
  rw [s.fetchWord_toNat]
  omega

theorem State.fetchWord_mod (s : State) :
    s.fetchWord.toNat % 256 = (s.memRead (s.pc + 1#16)).toNat := by
  have hlow := (s.memRead (s.pc + 1#16)).isLt
  rw [s.fetchWord_toNat]
  omega

/-- A byte held at `a` is the byte of the fetched word that `a` lands on (R75). -/
theorem State.fetchWord_of_memRead {s : State} {a : Word} {b : Byte} (h : s.memRead a = b) :
    (busAddr a = busAddr s.pc → s.fetchWord.toNat / 256 = b.toNat) ∧
    (busAddr a = busAddr (s.pc + 1#16) → s.fetchWord.toNat % 256 = b.toNat) := by
  subst h
  exact ⟨fun ha => by rw [s.fetchWord_div, s.memRead_of_busAddr_eq ha],
    fun ha => by rw [s.fetchWord_mod, s.memRead_of_busAddr_eq ha]⟩

/-! ## What FX55 and FX33 store -/

theorem State.placeBytes_pc (s : State) (a : Word) (bytes : List Byte) :
    (s.placeBytes a bytes).pc = s.pc := by
  rw [State.placeBytes_eq]

theorem storeLoop_pc (rs : List Reg) (s : State) : (storeLoop rs s).pc = s.pc := by
  rw [storeLoop_eq, State.setI_pc, State.placeBytes_pc]

/-- FX55 stores V[r] at I + r (R196). -/
theorem memRead_storeLoop_regsUpTo (s : State) {x r : Reg} (h : r.toNat ≤ x.toNat) :
    (storeLoop (regsUpTo x) s).memRead (indirect s r.toNat) = s.reg r := by
  have hlen : ((regsUpTo x).map s.reg).length = x.toNat + 1 := by
    rw [List.length_map, regsUpTo_length]
  rw [storeLoop_eq, State.memRead_setI, indirect,
    State.memRead_placeBytes _ s s.i r.toNat (by omega) (by omega), List.getElem_map,
    regsUpTo_getElem, BitVec.ofNat_toNat, BitVec.setWidth_eq]

/-- Digit `k` of a byte counts 100, 10 or 1 (R195). -/
theorem bcdDigits_toNat (b : Byte) (k : Fin 3) :
    ((bcdDigits b)[k.val]'k.isLt).toNat = b.toNat / 10 ^ (2 - k.val) % 10 := by
  have hb := b.isLt
  fin_cases k
  · have hdigit : b.toNat / 100 = b.toNat / 100 % 10 := by omega
    simpa [bcdDigits] using hdigit
  · simp [bcdDigits]
  · simp [bcdDigits]

/-- FX33 stores digit `k` at I + k (R195). -/
theorem memRead_placeBytes_bcdDigits (s : State) (b : Byte) (k : Fin 3) :
    (s.placeBytes (indirect s 0) (bcdDigits b)).memRead (indirect s k.val) =
      (bcdDigits b)[k.val]'k.isLt := by
  have hbase : indirect s 0 = s.i := BitVec.add_zero s.i
  rw [hbase]
  exact State.memRead_placeBytes (bcdDigits b) s s.i k.val k.isLt (by decide : 3 ≤ 4096)

/-- Settles O50: both instructions keep PC, so the next fetch reads at the two addresses where the
stored bytes are read back. -/
theorem storedCodeIsFetchedAtOnce : Obligations.StoredCodeIsFetchedAtOnce := by
  unfold Obligations.StoredCodeIsFetchedAtOnce
  intro x s
  refine ⟨⟨storeLoop (regsUpTo x) s, rfl, fun r hr => ?_⟩,
    ⟨s.placeBytes (indirect s 0) (bcdDigits (s.reg x)), rfl, fun k => ?_⟩⟩
  · rw [← storeLoop_pc (regsUpTo x) s]
    exact State.fetchWord_of_memRead (memRead_storeLoop_regsUpTo s hr)
  · rw [← s.placeBytes_pc (indirect s 0) (bcdDigits (s.reg x)), ← bcdDigits_toNat]
    exact State.fetchWord_of_memRead (memRead_placeBytes_bcdDigits s (s.reg x) k)

end Sys2Proof.Machine
end

section
/-! The decoder and the encoder (spec/30_encoding.md R90 to R97): each undoes the other, the decoder
is the opcode map read by mask and match, and what it leaves over are the unknown opcodes of R96. -/

namespace Sys2Proof

/-! ## A word joined again from its fields -/

section
variable {op : Word} {t : Nibble}

theorem append_opNNN (ht : opT op = t) : t ++ opNNN op = op := by
  subst ht
  apply BitVec.eq_of_toNat_eq
  have hlt := op.isLt
  rw [word_nnn_toNat, opT_toNat, opNNN_toNat]
  omega

theorem append_opX_opNN (ht : opT op = t) : t ++ opX op ++ opNN op = op := by
  subst ht
  apply BitVec.eq_of_toNat_eq
  have hlt := op.isLt
  rw [word_nn_toNat, opT_toNat, opX_toNat, opNN_toNat]
  omega

theorem append_opX_opY_opN (ht : opT op = t) : t ++ opX op ++ opY op ++ opN op = op := by
  subst ht
  apply BitVec.eq_of_toNat_eq
  have hlt := op.isLt
  rw [word_yn_toNat, opT_toNat, opX_toNat, opY_toNat, opN_toNat]
  omega

end

/-! ## From an instruction to its word and back -/

/-- The fields read back from the word of an instruction lead the decoder to that instruction. -/
theorem decodeOp_encode (i : Instr) : decodeOp (encode i) = .instr i := by
  cases i
  case cls | ret => decide
  case jp | call | ldI | jpx =>
    simp only [encode, decodeOp, opT_nnn, opNNN_nnn]
    rfl
  case seImm | sneImm | ldImm | addImm | rnd | skp | sknp | ldVxDt | ldVxK | ldDtVx | ldStVx | addI
      | ldF | ldB | storeRegs | loadRegs =>
    simp only [encode, decodeOp, opT_nn, opX_nn, opNN_nn]
    rfl
  case seReg | sneReg | ldReg | orReg | andReg | xorReg | addReg | subReg | shrReg | subnReg
      | shlReg | drw =>
    simp only [encode, decodeOp, opT_yn, opX_yn, opY_yn, opN_yn]
    rfl

/-- The two bytes of a word in memory order decode as the word (R63). -/
theorem decodeBytes_wordBytes (op : Word) : decodeBytes (wordBytes op) = some (decodeOp op) := by
  rw [wordBytes, decodeBytes, Machine.wordBytes_append]

/-- Settles O1: the bytes decode as the word, and the word as its instruction. -/
theorem decodeOfEncode : Obligations.DecodeOfEncode := by
  unfold Obligations.DecodeOfEncode
  intro i
  exact ⟨decodeOp_encode i, (decodeBytes_wordBytes _).trans (congrArg some (decodeOp_encode i))⟩

/-! ## From a word to its instruction and back -/

theorem encode_of_decodeFamily0 {op : Word} {i : Instr} (h : decodeFamily0 op = .instr i) :
    encode i = op := by
  unfold decodeFamily0 at h
  split at h
  · rename_i hop
    cases h
    exact hop.symm
  · split at h
    · rename_i hop
      cases h
      exact hop.symm
    · cases h

theorem encode_of_decodeFamily8 {x y : Reg} {n : Nibble} {i : Instr}
    (h : decodeFamily8 x y n = .instr i) : encode i = 0x8#4 ++ x ++ y ++ n := by
  unfold decodeFamily8 at h
  split at h <;> rename_i hn <;> cases h
  all_goals
    rw [(BitVec.toNat_eq_nat.mp hn).2]
    rfl

theorem encode_of_decodeFamilyE {x : Reg} {nn : Byte} {i : Instr}
    (h : decodeFamilyE x nn = .instr i) : encode i = 0xE#4 ++ x ++ nn := by
  unfold decodeFamilyE at h
  split at h <;> rename_i hnn <;> cases h
  all_goals
    rw [(BitVec.toNat_eq_nat.mp hnn).2]
    rfl

theorem encode_of_decodeFamilyF {x : Reg} {nn : Byte} {i : Instr}
    (h : decodeFamilyF x nn = .instr i) : encode i = 0xF#4 ++ x ++ nn := by
  unfold decodeFamilyF at h
  split at h <;> rename_i hnn <;> cases h
  all_goals
    rw [(BitVec.toNat_eq_nat.mp hnn).2]
    rfl

theorem decodeIfZero_eq_instr {n f : Nibble} {i j : Instr} (h : decodeIfZero n f i = .instr j) :
    n = 0x0#4 ∧ i = j := by
  unfold decodeIfZero at h
  split at h
  · rename_i hn
    cases h
    exact ⟨hn, rfl⟩
  · cases h

/-- The decoder fills an instruction with the fields of the word, so its encoding is that word. The
branch `h_1` is that of top nibble 0, and so on up to `h_16`, that of F. -/
theorem encode_of_decodeOp {op : Word} {i : Instr} (h : decodeOp op = .instr i) :
    encode i = op := by
  unfold decodeOp at h
  split at h
  case h_1 => exact encode_of_decodeFamily0 h
  case h_16 =>
    have hlt := (opT op).isLt
    have hT : (opT op).toNat = 0xF := by grind
    exact (encode_of_decodeFamilyF h).trans (append_opX_opNN (BitVec.toNat_eq_nat.mp hT).2)
  all_goals
    rename_i hT
    replace hT := (BitVec.toNat_eq_nat.mp hT).2
  case h_2 | h_3 | h_11 | h_12 =>
    cases h
    exact append_opNNN hT
  case h_4 | h_5 | h_7 | h_8 | h_13 =>
    cases h
    exact append_opX_opNN hT
  case h_6 | h_10 =>
    obtain ⟨hN, rfl⟩ := decodeIfZero_eq_instr h
    rw [encode, ← hN]
    exact append_opX_opY_opN hT
  case h_9 => exact (encode_of_decodeFamily8 h).trans (append_opX_opY_opN hT)
  case h_14 =>
    cases h
    exact append_opX_opY_opN hT
  case h_15 => exact (encode_of_decodeFamilyE h).trans (append_opX_opNN hT)

/-- Settles O2: each branch of the decoder keeps all the bits of the word. -/
theorem encodeOfDecode : Obligations.EncodeOfDecode := by
  unfold Obligations.EncodeOfDecode
  intro op i
  exact encode_of_decodeOp

/-! ## The rows of the opcode map: what a mask leaves to compare -/

/-- The word of an instruction lies in the row of the instruction (R95). -/
theorem encode_and_mask (i : Instr) : encode i &&& (opcodeRow i).mask = (opcodeRow i).pat := by
  cases i
  case cls | ret => rfl
  case jp | call | ldI | jpx => exact Laws.RowMatch.mask_nnn _ _
  case seImm | sneImm | ldImm | addImm | rnd => exact Laws.RowMatch.mask_nn _ _ _
  case seReg | sneReg | ldReg | orReg | andReg | xorReg | addReg | subReg | shrReg | subnReg
      | shlReg => exact Laws.RowMatch.mask_xy _ _ _ _
  case drw => exact Laws.RowMatch.mask_xyn _ _ _ _
  case skp | sknp | ldVxDt | ldVxK | ldDtVx | ldStVx | addI | ldF | ldB | storeRegs | loadRegs =>
    exact Laws.RowMatch.mask_xf _ _ _

section
variable {op pat : Word}

theorem eq_of_and_FFFF (h : op &&& 0xFFFF#16 = pat) : op = pat :=
  BitVec.and_allOnes.symm.trans h

theorem opT_of_and_F000 (h : op &&& 0xF000#16 = pat) : opT op = opT pat := by
  rw [← h]
  nth_rw 2 [← append_opNNN (op := op) rfl]
  rw [Laws.RowMatch.mask_nnn, opT_nnn]

theorem opT_opN_of_and_F00F (h : op &&& 0xF00F#16 = pat) : opT op = opT pat ∧ opN op = opN pat := by
  have hop := Laws.RowMatch.mask_xy (opT op) (opX op) (opY op) (opN op)
  rw [append_opX_opY_opN rfl, h] at hop
  rw [hop, opT_yn, opN_yn]
  exact ⟨rfl, rfl⟩

theorem opT_opNN_of_and_F0FF (h : op &&& 0xF0FF#16 = pat) :
    opT op = opT pat ∧ opNN op = opNN pat := by
  have hop := Laws.RowMatch.mask_xf (opT op) (opX op) (opNN op)
  rw [append_opX_opNN rfl, h] at hop
  rw [hop, opT_nn, opNN_nn]
  exact ⟨rfl, rfl⟩

end

/-- The nibbles a row fixes are those the decoder branches on, so a word of the row decodes to an
instruction of the row (R94). -/
theorem decodeOp_of_and_mask {op : Word} {i : Instr}
    (h : op &&& (opcodeRow i).mask = (opcodeRow i).pat) :
    ∃ j : Instr, decodeOp op = .instr j ∧ opcodeRow j = opcodeRow i := by
  cases i <;> simp only [opcodeRow] at h
  case cls | ret =>
    rw [eq_of_and_FFFF h]
    exact ⟨_, rfl, rfl⟩
  case jp | call | ldI | jpx | seImm | sneImm | ldImm | addImm | rnd | drw =>
    rw [decodeOp, opT_of_and_F000 h]
    exact ⟨_, rfl, rfl⟩
  case seReg | sneReg | ldReg | orReg | andReg | xorReg | addReg | subReg | shrReg | subnReg
      | shlReg =>
    obtain ⟨hT, hN⟩ := opT_opN_of_and_F00F h
    rw [decodeOp, hT, hN]
    exact ⟨_, rfl, rfl⟩
  case skp | sknp | ldVxDt | ldVxK | ldDtVx | ldStVx | addI | ldF | ldB | storeRegs | loadRegs =>
    obtain ⟨hT, hNN⟩ := opT_opNN_of_and_F0FF h
    rw [decodeOp, hT, hNN]
    exact ⟨_, rfl, rfl⟩

/-- Settles O3: a word of a row decodes within the row, and a decoded word, as the encoding of its
instruction, lies in the row of it. -/
theorem decodeFollowsOpcodeMap : Obligations.DecodeFollowsOpcodeMap := by
  unfold Obligations.DecodeFollowsOpcodeMap
  refine ⟨rfl, fun r hr op => ?_⟩
  obtain ⟨i, -, rfl⟩ := List.mem_map.mp hr
  refine ⟨decodeOp_of_and_mask, ?_⟩
  rintro ⟨j, hj, hrow⟩
  rw [← hrow, ← encode_of_decodeOp hj]
  exact encode_and_mask j

/-! ## The unknown opcodes: what each family leaves over -/

theorem decodeFamily0_unknown (op : Word) :
    (∃ f, decodeFamily0 op = .unknown f) ↔ op.toNat ≠ 0x00E0 ∧ op.toNat ≠ 0x00EE := by
  unfold decodeFamily0
  split
  · simp [*]
  · split
    · simp [*]
    · rename_i hcls hret
      have hne : op.toNat ≠ 0x00E0 ∧ op.toNat ≠ 0x00EE := ⟨by bv_omega, by bv_omega⟩
      simp [hne]

theorem decodeIfZero_unknown (n family : Nibble) (i : Instr) :
    (∃ f, decodeIfZero n family i = .unknown f) ↔ n.toNat ≠ 0 := by
  unfold decodeIfZero
  split
  · simp [*]
  · have hne : n.toNat ≠ 0 := by bv_omega
    simp [hne]

theorem decodeFamily8_unknown (x y : Reg) (n : Nibble) :
    (∃ f, decodeFamily8 x y n = .unknown f) ↔
      n.toNat ∈ [0x8, 0x9, 0xA, 0xB, 0xC, 0xD, 0xF] := by
  have hn := n.isLt
  unfold decodeFamily8
  split
  case h_10 =>
    have hmem : n.toNat ∈ [0x8, 0x9, 0xA, 0xB, 0xC, 0xD, 0xF] := by
      simp only [List.mem_cons, List.not_mem_nil]
      grind
    simp [hmem]
  all_goals simp [*]

theorem decodeFamilyE_unknown (x : Reg) (nn : Byte) :
    (∃ f, decodeFamilyE x nn = .unknown f) ↔ nn.toNat ∉ [0x9E, 0xA1] := by
  unfold decodeFamilyE
  split <;> simp_all

theorem decodeFamilyF_unknown (x : Reg) (nn : Byte) :
    (∃ f, decodeFamilyF x nn = .unknown f) ↔
      nn.toNat ∉ [0x07, 0x0A, 0x15, 0x18, 0x1E, 0x29, 0x33, 0x55, 0x65] := by
  unfold decodeFamilyF
  split <;> simp_all

theorem toNat_div_4096 (op : Word) : op.toNat / 0x1000 = (opT op).toNat := by
  have hlt := op.isLt
  rw [opT_toNat]
  omega

theorem toNat_lt_4096_iff (op : Word) : op.toNat < 0x1000 ↔ (opT op).toNat = 0 := by
  have hlt := op.isLt
  rw [opT_toNat]
  omega

/-- Settles O4: with the table read nibble by nibble, each branch of the decoder has the row of its
own family, or has none and knows every word. -/
theorem unknownWordsAreThoseOfTheTable : Obligations.UnknownWordsAreThoseOfTheTable := by
  unfold Obligations.UnknownWordsAreThoseOfTheTable
  intro op
  rw [toNat_lt_4096_iff, toNat_div_4096, ← opN_toNat, ← opNN_toNat]
  unfold decodeOp
  split
  case h_1 hT => simp [hT, decodeFamily0_unknown]
  case h_6 hT | h_10 hT => simp [hT, decodeIfZero_unknown]
  case h_9 hT => simp [hT, decodeFamily8_unknown]
  case h_15 hT => simp [hT, decodeFamilyE_unknown]
  case h_16 =>
    have hlt := (opT op).isLt
    have hT : (opT op).toNat = 0xF := by grind
    simp [hT, decodeFamilyF_unknown]
  all_goals
    rename_i hT
    simp [hT]

/-- Settles O5: eight of the words are encodings, and the other two run into an unknown branch. -/
theorem sampleWordsDecode : Obligations.SampleWordsDecode := by
  unfold Obligations.SampleWordsDecode
  exact ⟨decodeOp_encode .ret, decodeOp_encode (.jpx 0x210#12), decodeOp_encode (.subnReg 1#4 2#4),
    decodeOp_encode (.rnd 3#4 0x0F#8), decodeOp_encode (.storeRegs 2#4),
    decodeOp_encode (.drw 0#4 1#4 2#4), decodeOp_encode (.skp 3#4), decodeOp_encode (.ldVxK 2#4),
    rfl, rfl⟩

end Sys2Proof
end

section
/-! The cycle and the batch (spec/40_cycle.md): what a step runs in each situation of the host, and
that a batch is its cycles and then one timer tick. -/

namespace Sys2Proof.Machine

/-! ## The halt -/

theorem State.halted_eq_false {s : State} (h : s.fault = none) : s.halted = false := by
  rw [State.halted, h, Option.isSome_none]

theorem State.halted_eq_true {s : State} (h : s.fault ≠ none) : s.halted = true :=
  Option.isSome_iff_ne_none.mpr h

/-! ## A cycle -/

/-- A halted core does nothing (R127). -/
theorem cycle_of_halted {s : State} (hf : s.fault ≠ none) : cycle s = .next s :=
  if_pos (State.halted_eq_true hf)

/-- Advance, then the execute phase of the decoded instruction (R122, R123). -/
theorem cycle_of_instr {s : State} {i : Instr} (hf : s.fault = none)
    (hd : decodeOp s.fetchWord = .instr i) : cycle s = exec i s.advance := by
  simp only [cycle, State.halted_eq_false hf, hd, Bool.false_eq_true, if_false]

/-- A cycle leaves the host's side of the model as it finds it (log 7). -/
theorem cycle_host_kept {s t : State} (h : cycle s = .next t) :
    t.batch = s.batch ∧ t.pending = s.pending := by
  have hsame : cycle s = .next ((t.setBatch s.batch).setPending s.pending) :=
    cycle_host s.batch s.pending h
  have heq := Host.Outcome.next.inj (h.symm.trans hsame)
  exact ⟨(congrArg State.batch heq).trans rfl, (congrArg State.pending heq).trans rfl⟩

/-- A jump to its own address comes back to the state it starts from (S9). -/
theorem cycle_of_selfJump {s : State} {nnn : BitVec 12} (hf : s.fault = none)
    (hd : decodeOp s.fetchWord = .instr (.jp nnn)) (hpc : s.pc = addrImm nnn) :
    cycle s = .next s := by
  rw [cycle_of_instr hf hd, exec, execJp, ← hpc]
  rfl

/-! ## A step, by what the host has in hand -/

theorem step_of_idle {s : State} (hb : s.batch = none) (hp : s.pending = []) :
    step s = cycle s := by
  simp only [step, hostStep, hb, hp]

theorem step_of_command {s : State} {c : Command} {rest : List Command} (hb : s.batch = none)
    (hp : s.pending = c :: rest) : step s = startCommand c (s.setPending rest) := by
  simp only [step, hostStep, hb, hp]

theorem step_of_batch {s : State} {n : Nat} (hb : s.batch = some n) : step s = batchStep n s := by
  simp only [step, hostStep, hb]

/-- A halted core drops its batch without a tick (R127). -/
theorem batchStep_of_halted (n : Nat) {s : State} (hf : s.fault ≠ none) :
    batchStep n s = .next (s.setBatch none) := if_pos (State.halted_eq_true hf)

/-- With no cycle left the batch ends in the timer tick (R126). -/
theorem batchStep_zero {s : State} (hf : s.fault = none) :
    batchStep 0 s = .next (s.timerTick.setBatch none) := by
  simp only [batchStep, State.halted_eq_false hf, Bool.false_eq_true, if_false]

/-- With cycles left one of them runs, and a fault in it ends the batch (R126, R127). -/
theorem batchStep_succ {m : Nat} {s t : State} (hf : s.fault = none)
    (h : cycle (s.setBatch (some m)) = .next t) :
    batchStep (m + 1) s = .next (if t.fault = none then t else t.setBatch none) := by
  simp only [batchStep, State.halted_eq_false hf, h, Bool.false_eq_true, if_false]
  by_cases ht : t.fault = none
  · rw [State.halted_eq_false ht, if_pos ht, if_neg Bool.false_ne_true]
  · rw [State.halted_eq_true ht, if_neg ht, if_pos rfl]

theorem batchStep_next (n : Nat) (s : State) : ∃ t : State, batchStep n s = .next t := by
  by_cases hf : s.fault = none
  · cases n with
    | zero => exact ⟨_, batchStep_zero hf⟩
    | succ m =>
      obtain ⟨t, ht⟩ := cycle_next (s.setBatch (some m))
      exact ⟨_, batchStep_succ hf ht⟩
  · exact ⟨_, batchStep_of_halted n hf⟩

/-- RESET answers a next state, or refuses an image that does not fit (R69, D14). -/
theorem runReset_cases (image : List Byte) (s : State) :
    (∃ t : State, runReset image s = .next t) ∨
    (Config.progMax < image.length ∧ runReset image s = .refused .oversizedImage) := by
  unfold runReset
  cases hw : imageWellFormed image with
  | true => exact .inl ⟨_, if_pos rfl⟩
  | false => exact .inr ⟨Nat.lt_of_not_le (of_decide_eq_false hw), if_neg Bool.false_ne_true⟩

/-- A command begins with a next state, but for a RESET whose image does not fit (R40, R69). -/
theorem startCommand_cases (c : Command) (s : State) :
    (∃ t : State, startCommand c s = .next t) ∨
    (∃ image : List Byte, c = .reset image ∧ Config.progMax < image.length ∧
      startCommand c s = .refused .oversizedImage) := by
  cases c with
  | reset image =>
    obtain hnext | ⟨hlong, hrefused⟩ := runReset_cases image s
    · exact .inl hnext
    · exact .inr ⟨image, rfl, hlong, hrefused⟩
  | setKeys k => exact .inl ⟨_, rfl⟩
  | step => exact .inl (cycle_next s)
  | batch n => exact .inl ⟨_, rfl⟩

/-- Settles O22: cycles, batches and every command but RESET always answer. -/
theorem stepStopsOnlyAtOversizedReset : Obligations.StepStopsOnlyAtOversizedReset := by
  unfold Obligations.StepStopsOnlyAtOversizedReset
  intro s
  cases hb : s.batch with
  | some n =>
    rw [step_of_batch hb]
    exact .inl (batchStep_next n s)
  | none =>
    cases hp : s.pending with
    | nil =>
      rw [step_of_idle hb hp]
      exact .inl (cycle_next s)
    | cons c rest =>
      rw [step_of_command hb hp]
      obtain hnext | ⟨image, rfl, hlong, hrefused⟩ := startCommand_cases c (s.setPending rest)
      · exact .inl hnext
      · exact .inr ⟨rfl, hrefused, image, rest, rfl, hlong⟩

/-! ## The timer tick -/

/-- A tick is one less, floored at 0 (R231). -/
theorem tickByte_toNat (b : Byte) : (tickByte b).toNat = b.toNat - 1 := by
  by_cases h : tickByte b = b
  · have hzero : b = 0#8 := by
      by_contra hne
      rw [tickByte, if_neg hne] at h
      bv_omega
    rw [hzero]
    rfl
  · exact Nat.eq_sub_of_add_eq (tickByte_toNat_of_ne h)

theorem keptBut_refl (written : List Part) (s : State) : KeptBut written s s := by
  intro p _
  cases p
  case v | mem => exact fun _ => rfl
  all_goals rfl

/-- A tick changes the two timers alone (R231). -/
theorem keptBut_timerTick (s : State) : KeptBut [.dt, .st] s s.timerTick := by
  intro p hp
  cases p
  case dt | st => simp at hp
  case v | mem => exact fun _ => rfl
  all_goals rfl

/-- The tick that ends a batch also clears the batch counter (log 7). -/
theorem keptBut_timerTick_setBatch (s : State) (b : Option Nat) :
    KeptBut [.dt, .st, .batch] s (s.timerTick.setBatch b) := by
  intro p hp
  cases p
  case dt | st | batch => simp at hp
  case v | mem => exact fun _ => rfl
  all_goals rfl

/-! ## The batch as a whole -/

theorem runBatch_of_halted (n : Nat) {s : State} (hf : s.fault ≠ none) :
    runBatch n s = .next s := if_pos (State.halted_eq_true hf)

/-- A batch of no cycles is the timer tick alone (R126). -/
theorem runBatch_zero {s : State} (hf : s.fault = none) : runBatch 0 s = .next s.timerTick := by
  rw [runBatch, State.halted_eq_false hf, if_neg Bool.false_ne_true, batchLoop]

/-- A batch is one cycle and then the batch of the cycles left, also when the core is halted before
or by that cycle (R126, R127). -/
theorem runBatch_succ (n : Nat) {s t : State} (h : cycle s = .next t) :
    runBatch (n + 1) s = runBatch n t := by
  by_cases hf : s.fault = none
  · rw [runBatch, State.halted_eq_false hf, if_neg Bool.false_ne_true, batchLoop, h]
    rfl
  · cases (cycle_of_halted hf).symm.trans h
    rw [runBatch_of_halted _ hf, runBatch_of_halted _ hf]

/-- A run that opens with a next state goes on from there. -/
theorem run_succ_of_step {M : Host.Core} (n : Nat) {s t : M.State} (h : M.step s = .next t) :
    M.run (n + 1) s = M.run n t := by
  rw [Host.Core.run, h]

/-- Where `n` cycles lead to `u`, what is left of BATCH(n) is the batch of no cycles from `u`. -/
theorem runBatch_of_run {n : Nat} {s u : State} (hb : s.batch = none) (hp : s.pending = [])
    (h : Host.Core.run core n s = .next u) : runBatch n s = runBatch 0 u := by
  induction n generalizing s with
  | zero =>
    cases h
    rfl
  | succ n ih =>
    obtain ⟨t, ht⟩ := cycle_next s
    have hstep : core.step s = .next t := (step_of_idle hb hp).trans ht
    obtain ⟨hbt, hpt⟩ := cycle_host_kept ht
    rw [run_succ_of_step n hstep] at h
    rw [runBatch_succ n ht]
    exact ih (hbt.trans hb) (hpt.trans hp) h

/-- A jump to itself spends any number of cycles where it is. -/
theorem runBatch_of_selfJump (n : Nat) {s : State} {nnn : BitVec 12} (hf : s.fault = none)
    (hd : decodeOp s.fetchWord = .instr (.jp nnn)) (hpc : s.pc = addrImm nnn) :
    runBatch n s = .next s.timerTick := by
  induction n with
  | zero => exact runBatch_zero hf
  | succ n ih => rw [runBatch_succ n (cycle_of_selfJump hf hd hpc), ih]

/-- Settles O17: the cycles of a batch are peeled off one by one, and what is left is the batch of no
cycles, which is the tick or nothing. -/
theorem batchTicksTimersOnce : Obligations.BatchTicksTimersOnce := by
  unfold Obligations.BatchTicksTimersOnce
  refine ⟨fun s hb hf => ?_, fun n s u hb hp hrun => ?_, fun n s nnn hf hd hpc => ?_⟩
  · exact ⟨s.timerTick.setBatch none, (step_of_batch hb).trans (batchStep_zero hf),
      tickByte_toNat s.dt, tickByte_toNat s.st, rfl, keptBut_timerTick_setBatch s none⟩
  · rw [runBatch_of_run hb hp hrun]
    by_cases hf : u.fault = none
    · exact ⟨u.timerTick, runBatch_zero hf,
        fun _ => ⟨tickByte_toNat u.dt, tickByte_toNat u.st, keptBut_timerTick u⟩,
        fun hne => absurd hf hne⟩
    · exact ⟨u, runBatch_of_halted 0 hf, fun h => absurd h hf, fun _ => keptBut_refl [] u⟩
  · exact ⟨s.timerTick, runBatch_of_selfJump n hf hd hpc, tickByte_toNat s.dt,
      tickByte_toNat s.st, keptBut_timerTick s⟩

/-! ## The fetch and the decoded instruction -/

/-- The byte after PC lies at (PC + 1) mod 4096: the wrap modulo 2^16 is a wrap modulo 4096 (R68). -/
theorem busAddr_add_one (a : Word) : busAddr (a + 1#16) = (a.toNat + 1) % 4096 := by
  rw [busAddr, BitVec.toNat_add]
  exact Nat.mod_mod_of_dvd _ (by decide : 4096 ∣ 2 ^ 16)

/-- Settles O12: the word is big-endian, and each of its addresses has its own bus address. -/
theorem fetchReadsTwoBytesBigEndian : Obligations.FetchReadsTwoBytesBigEndian := by
  unfold Obligations.FetchReadsTwoBytesBigEndian
  intro s
  rw [s.fetchWord_toNat, ← busAddr_add_one]
  rfl

/-- Settles O13: each situation of the host leads to a cycle, and a cycle is the execute phase of the
decoded instruction; the fetch does not see the host's side. -/
theorem stepRunsTheDecodedInstruction : Obligations.StepRunsTheDecodedInstruction := by
  unfold Obligations.StepRunsTheDecodedInstruction
  intro s i hf hd
  obtain ⟨hpc, hkept⟩ := writesPc_setPc s (s.pc + 2#16)
  refine ⟨hpc, hkept, fun hb hp => ?_, fun rest hb hp => ?_, fun n t hb hexec => ?_⟩
  · rw [step_of_idle hb hp, cycle_of_instr hf hd]
  · rw [step_of_command hb hp]
    exact cycle_of_instr (s := s.setPending rest) hf hd
  · have hcycle : cycle (s.setBatch (some n)) = .next t :=
      (cycle_of_instr (s := s.setBatch (some n)) hf hd).trans hexec
    rw [step_of_batch hb, batchStep_succ hf hcycle]

end Sys2Proof.Machine
end

section
/-! The control-flow instructions (spec/41_control_flow.md R140 to R148): the return and its call, the
two jumps, and the conditional skips. -/

namespace Sys2Proof.Machine

/-! ## Return and call -/

theorem exec_ret_empty {s : State} (h : s.sp = 0) :
    exec .ret s = .next (s.raiseFault .stackUnderflow) := by
  rw [exec, execRet, State.pop_empty h]

theorem exec_ret_used {s : State} {k : Nat} (h : s.sp = k + 1) :
    exec .ret s = .next ((s.setStack s.stack k).setPc (s.entry k)) := by
  have hne : s.sp ≠ 0 := h ▸ Nat.succ_ne_zero k
  rw [exec, execRet, State.pop_used hne, h, Nat.add_sub_cancel]

theorem exec_call_room (nnn : BitVec 12) {s : State} (h : s.sp ≠ s.params.stackDepth) :
    exec (.call nnn) s =
      .next ((s.setStack (s.stack.set s.sp s.pc) (s.sp + 1)).setPc (addrImm nnn)) := by
  rw [exec, execCall, State.push_room h]

/-- Moving SP and PC keeps the array of the stack, the popped entry included (R140). -/
theorem keptBut_setStack_setPc (s : State) (q : Nat) (a : Word) :
    KeptBut [.pc, .sp] s ((s.setStack s.stack q).setPc a) := by
  intro p hp
  cases p
  case pc | sp => simp at hp
  case v | mem => exact fun _ => rfl
  all_goals rfl

/-- Settles O33: RET on an empty stack is the entry of the fault, and with `k + 1` entries in use it
moves SP and PC alone. -/
theorem returnPopsOrUnderflows : Obligations.ReturnPopsOrUnderflows := by
  unfold Obligations.ReturnPopsOrUnderflows
  intro s
  refine ⟨fun hempty => ?_, fun k hused => ?_⟩
  · exact ⟨_, exec_ret_empty hempty, entersFault_raiseFault s .stackUnderflow⟩
  · exact ⟨_, exec_ret_used hused, rfl, rfl, keptBut_setStack_setPc s k (s.entry k)⟩

/-- A return pops the address the call before it has pushed, so that of both instructions only the
freed entry is left (R140, R142). -/
theorem exec_ret_of_exec_call {nnn : BitVec 12} {s t : State} (hinv : s.StackInv)
    (hroom : s.sp < s.params.stackDepth) (h : exec (.call nnn) s = .next t) :
    exec .ret t = .next (s.setStack (s.stack.set s.sp s.pc) s.sp) := by
  obtain ⟨-, hlen, -⟩ := hinv
  have hpushed : (s.stack.set s.sp s.pc).getD s.sp 0#16 = s.pc :=
    s.getD_set_same s.pc (hlen ▸ hroom)
  cases (exec_call_room nnn hroom.ne).symm.trans h
  rw [exec_ret_used (k := s.sp) rfl, State.entry_setPc, State.entry_setStack, hpushed]
  rfl

/-- Settles O35: after CALL and RET the state differs from the first one in the freed entry alone. -/
theorem returnUndoesCall : Obligations.ReturnUndoesCall := by
  unfold Obligations.ReturnUndoesCall
  intro nnn s hinv hroom
  have hcall := exec_call_room nnn hroom.ne
  exact ⟨_, _, hcall, exec_ret_of_exec_call hinv hroom hcall, rfl, rfl, keptBut_setStack s _,
    fun _ hj => s.getD_set_ne s.pc hj⟩

/-! ## Jumps -/

theorem addrImm_toNat (nnn : BitVec 12) : (addrImm nnn).toNat = nnn.toNat :=
  BitVec.toNat_setWidth_of_le (by decide)

theorem regWide_toNat (s : State) (x : Reg) : (regWide s x).toNat = (s.reg x).toNat :=
  BitVec.toNat_setWidth_of_le (by decide)

/-- The register BNNN names is the top nibble of NNN (R143). -/
theorem jpxReg_eq_ofNat (nnn : BitVec 12) : jpxReg nnn = BitVec.ofNat 4 (nnn.toNat / 256) := by
  rw [jpxReg, BitVec.extractLsb', Nat.shiftRight_eq_div_pow]

/-- The sum is at most 0x0FFF + 0xFF, so it does not wrap (R143). -/
theorem jpxTarget_toNat (s : State) (nnn : BitVec 12) :
    (jpxTarget s nnn).toNat = nnn.toNat + (s.reg (jpxReg nnn)).toNat := by
  have hnnn := nnn.isLt
  have hreg := (s.reg (jpxReg nnn)).isLt
  rw [jpxTarget, BitVec.toNat_add_of_lt, addrImm_toNat, regWide_toNat]
  rw [addrImm_toNat, regWide_toNat]
  omega

/-- Settles O36: JP sets PC and nothing else, to NNN without loss. -/
theorem jumpLoadsItsAddress : Obligations.JumpLoadsItsAddress := by
  unfold Obligations.JumpLoadsItsAddress
  intro nnn s
  obtain ⟨-, hkept⟩ := writesPc_setPc s (addrImm nnn)
  exact ⟨_, rfl, addrImm_toNat nnn, hkept⟩

/-- Settles O37: BNNN sets PC and nothing else, to a sum that does not wrap. -/
theorem indexedJumpAddsItsRegister : Obligations.IndexedJumpAddsItsRegister := by
  unfold Obligations.IndexedJumpAddsItsRegister
  intro nnn s
  obtain ⟨-, hkept⟩ := writesPc_setPc s (jpxTarget s nnn)
  rw [← jpxReg_eq_ofNat]
  exact ⟨_, rfl, jpxTarget_toNat s nnn, hkept⟩

/-! ## Conditional skips -/

/-- To skip where two bytes are equal (R145, R147). -/
theorem writesPc_skipIf_beq (s : State) (p q : Byte) :
    WritesPc (if p = q then s.pc + 2#16 else s.pc) s (s.skipIf (p == q)) := by
  simpa only [beq_iff_eq] using writesPc_skipIf s (p == q)

/-- To skip where two bytes differ (R146, R148). -/
theorem writesPc_skipIf_bne (s : State) (p q : Byte) :
    WritesPc (if p = q then s.pc else s.pc + 2#16) s (s.skipIf (p != q)) := by
  simpa only [bne_iff_ne, ite_not] using writesPc_skipIf s (p != q)

/-- Settles O38: both are a skip on the comparison of VX with NN. -/
theorem immediateSkips : Obligations.ImmediateSkips := by
  unfold Obligations.ImmediateSkips
  intro x nn s
  exact ⟨⟨_, rfl, writesPc_skipIf_beq s (s.reg x) nn⟩, ⟨_, rfl, writesPc_skipIf_bne s (s.reg x) nn⟩⟩

/-- A word of family 5 is 5XY0 or unknown (R147, D17). -/
theorem decodeOp_family5 (x y : Reg) (n : Nibble) :
    decodeOp (0x5#4 ++ x ++ y ++ n) = decodeIfZero n 0x5#4 (.seReg x y) := by
  simp only [decodeOp, opT_yn, opX_yn, opY_yn, opN_yn]
  rfl

/-- A word of family 9 is 9XY0 or unknown (R148, D17). -/
theorem decodeOp_family9 (x y : Reg) (n : Nibble) :
    decodeOp (0x9#4 ++ x ++ y ++ n) = decodeIfZero n 0x9#4 (.sneReg x y) := by
  simp only [decodeOp, opT_yn, opX_yn, opY_yn, opN_yn]
  rfl

/-- Settles O39: both are a skip on the comparison of VX with VY, and their families decode only where
the low nibble is 0. -/
theorem registerSkips : Obligations.RegisterSkips := by
  unfold Obligations.RegisterSkips
  refine ⟨fun x y s => ⟨?_, ?_⟩, fun x y n => ⟨?_, ?_⟩⟩
  · exact ⟨_, rfl, writesPc_skipIf_beq s (s.reg x) (s.reg y)⟩
  · exact ⟨_, rfl, writesPc_skipIf_bne s (s.reg x) (s.reg y)⟩
  · exact decodeOp_family5 x y n
  · exact decodeOp_family9 x y n

end Sys2Proof.Machine
end

section
/-! The arithmetic and logic instructions (spec/42_alu.md R160 to R172): what each result and each flag
is as a number, and the instructions as one register write or one write of a result and its flag. -/

namespace Sys2Proof.Machine

/-! ## Flags -/

theorem flagByte_decide (c : Prop) [Decidable c] :
    flagByte (decide c) = if c then 1#8 else 0#8 := by
  simp only [flagByte, decide_eq_true_eq]

/-- Carry is the sum over the naturals past one byte (R160, R168). -/
theorem carryFlag_eq (p q : Byte) :
    carryFlag p q = if 255 < p.toNat + q.toNat then 1#8 else 0#8 :=
  flagByte_decide _

/-- No borrow is the order of the operands, equality included (R160, R169, R171). -/
theorem noBorrowFlag_eq (minuend subtrahend : Byte) :
    noBorrowFlag minuend subtrahend =
      if subtrahend.toNat ≤ minuend.toNat then 1#8 else 0#8 :=
  flagByte_decide _

/-- A flag taken from bit `k` is that binary digit of the byte. -/
theorem flagByte_getLsbD (b : Byte) (k : Nat) :
    flagByte (b.getLsbD k) = BitVec.ofNat 8 (b.toNat / 2 ^ k % 2) := by
  rw [← BitVec.testBit_toNat, ← Nat.toNat_testBit]
  cases b.toNat.testBit k
  · rfl
  · rfl

theorem lowBitFlag_eq_ofNat (b : Byte) : lowBitFlag b = BitVec.ofNat 8 (b.toNat % 2) := by
  rw [lowBitFlag, flagByte_getLsbD, Nat.pow_zero, Nat.div_one]

/-- Above bit 7 a byte has no digit, so the quotient is the bit itself (R172). -/
theorem highBitFlag_eq_ofNat (b : Byte) : highBitFlag b = BitVec.ofNat 8 (b.toNat / 128) := by
  have hlt : b.toNat / 128 < 2 := Nat.div_lt_of_lt_mul b.isLt
  exact (flagByte_getLsbD b 7).trans (congrArg _ (Nat.mod_eq_of_lt hlt))

/-! ## Results -/

theorem add_eq_ofNat_mod (p q : Byte) :
    p + q = BitVec.ofNat 8 ((p.toNat + q.toNat) % 256) := by
  apply BitVec.eq_of_toNat_eq
  rw [BitVec.toNat_add, BitVec.toNat_ofNat, Nat.mod_mod]

theorem sub_eq_ofNat_mod (p q : Byte) :
    p - q = BitVec.ofNat 8 ((p.toNat + 256 - q.toNat) % 256) := by
  have hq := q.isLt
  apply BitVec.eq_of_toNat_eq
  rw [BitVec.toNat_sub, BitVec.toNat_ofNat, Nat.mod_mod]
  congr 1
  omega

theorem ushiftRight_one_eq_ofNat (b : Byte) : b >>> 1 = BitVec.ofNat 8 (b.toNat / 2) := by
  have hlt : b.toNat / 2 < 256 := (Nat.div_le_self _ _).trans_lt b.isLt
  apply BitVec.eq_of_toNat_eq
  rw [BitVec.toNat_ushiftRight, BitVec.toNat_ofNat, Nat.shiftRight_eq_div_pow, Nat.pow_one,
    Nat.mod_eq_of_lt hlt]

theorem shiftLeft_one_eq_ofNat_mod (b : Byte) :
    b <<< 1 = BitVec.ofNat 8 (b.toNat * 2 % 256) := by
  apply BitVec.eq_of_toNat_eq
  rw [BitVec.toNat_shiftLeft, BitVec.toNat_ofNat, Nat.mod_mod, Nat.shiftLeft_eq]

/-! ## The instructions -/

/-- Settles O41: each writes its bitwise result and then a zero flag. -/
theorem logicForcesVfToZero : Obligations.LogicForcesVfToZero := by
  unfold Obligations.LogicForcesVfToZero
  intro x y s
  refine ⟨⟨_, _, rfl, writesRegFlag_setRegFlag s x _ logicFlag, fun k => ?_⟩,
    ⟨_, _, rfl, writesRegFlag_setRegFlag s x _ logicFlag, fun k => ?_⟩,
    ⟨_, _, rfl, writesRegFlag_setRegFlag s x _ logicFlag, fun k => ?_⟩⟩
  · exact BitVec.getElem_or k.isLt
  · exact BitVec.getElem_and k.isLt
  · exact BitVec.getElem_xor k.isLt

/-- Settles O42: the sum is written modulo 256, then the carry. -/
theorem addSetsCarry : Obligations.AddSetsCarry := by
  unfold Obligations.AddSetsCarry
  intro x y s
  rw [← add_eq_ofNat_mod, ← carryFlag_eq]
  exact ⟨_, rfl, writesRegFlag_setRegFlag s x _ _⟩

/-- Settles O43: both write a difference modulo 256, then its "no borrow", with the operands
exchanged. -/
theorem subtractSetsNoBorrow : Obligations.SubtractSetsNoBorrow := by
  unfold Obligations.SubtractSetsNoBorrow
  intro x y s
  rw [← sub_eq_ofNat_mod, ← sub_eq_ofNat_mod, ← noBorrowFlag_eq, ← noBorrowFlag_eq]
  exact ⟨⟨_, rfl, writesRegFlag_setRegFlag s x _ _⟩, ⟨_, rfl, writesRegFlag_setRegFlag s x _ _⟩⟩

/-- Settles O44: both write VY shifted by one, then the bit the shift has dropped. -/
theorem shiftsTakeVyAndSetTheBitOut : Obligations.ShiftsTakeVyAndSetTheBitOut := by
  unfold Obligations.ShiftsTakeVyAndSetTheBitOut
  intro x y s
  rw [← ushiftRight_one_eq_ofNat, ← lowBitFlag_eq_ofNat, ← shiftLeft_one_eq_ofNat_mod,
    ← highBitFlag_eq_ofNat]
  exact ⟨⟨_, rfl, writesRegFlag_setRegFlag s x _ _⟩, ⟨_, rfl, writesRegFlag_setRegFlag s x _ _⟩⟩

/-- Settles O40: each is the write of one register and nothing else. -/
theorem loadsAndImmediateAdd : Obligations.LoadsAndImmediateAdd := by
  unfold Obligations.LoadsAndImmediateAdd
  intro x y nn s
  rw [← add_eq_ofNat_mod]
  exact ⟨⟨_, rfl, writesReg_setReg s x nn⟩, ⟨_, rfl, writesReg_setReg s x _⟩,
    ⟨_, rfl, writesReg_setReg s x (s.reg y)⟩⟩

end Sys2Proof.Machine
end

section
/-! The index and memory instructions (spec/43_index_memory.md R191 to R197): the values that go to I,
and for FX33, FX55 and FX65 what is transferred, what is left as it was, and where I ends. -/

namespace Sys2Proof.Machine

/-! ## Loading and adding -/

theorem addrImm_eq_ofNat (nnn : BitVec 12) : addrImm nnn = BitVec.ofNat 16 nnn.toNat :=
  (BitVec.ofNat_toNat 16 nnn).symm

/-- FX1E adds modulo 2^16 (R192). -/
theorem add_regWide_eq_ofNat_mod (s : State) (x : Reg) (a : Word) :
    a + regWide s x = BitVec.ofNat 16 ((a.toNat + (s.reg x).toNat) % 65536) := by
  apply BitVec.eq_of_toNat_eq
  rw [BitVec.toNat_add, regWide_toNat, BitVec.toNat_ofNat, Nat.mod_mod]

/-- Settles O46: each is one write of I and nothing else. -/
theorem indexLoadsAndAdd : Obligations.IndexLoadsAndAdd := by
  unfold Obligations.IndexLoadsAndAdd
  intro nnn x s
  rw [← addrImm_eq_ofNat, ← add_regWide_eq_ofNat_mod]
  exact ⟨⟨_, rfl, writesI_setI s (addrImm nnn)⟩, ⟨_, rfl, writesI_setI s (s.i + regWide s x)⟩,
    ⟨_, rfl, writesI_setI s (glyphAddr s x)⟩⟩

/-! ## Decimal digits -/

theorem keptBut_placeBytes (s : State) (a : Word) (bytes : List Byte) :
    KeptBut [.mem] s (s.placeBytes a bytes) := by
  rw [State.placeBytes_eq]
  intro p hp
  cases p
  case mem => exact absurd (.head _) hp
  case v => exact fun _ => rfl
  all_goals rfl

/-- FX33 keeps every byte but the three at I, I + 1 and I + 2 (R195). -/
theorem memRead_placeBytes_bcdDigits_ne (s : State) (b : Byte) {a : Word}
    (h : ∀ k : Fin 3, busAddr a ≠ busAddr (indirect s k.val)) :
    (s.placeBytes (indirect s 0) (bcdDigits b)).memRead a = s.memRead a := by
  have hbase : indirect s 0 = s.i := BitVec.add_zero s.i
  rw [hbase]
  exact State.memRead_placeBytes_ne (bcdDigits b) s s.i a fun k hk => h ⟨k, hk⟩

/-- Settles O47: the three digits read back and the frame of the bytes placed; a byte is below 1000,
so its hundreds are a digit. -/
theorem bcdStoresThreeDigits : Obligations.BcdStoresThreeDigits := by
  unfold Obligations.BcdStoresThreeDigits
  intro x s
  have hdigit (k : Fin 3) :
      ((s.placeBytes (indirect s 0) (bcdDigits (s.reg x))).memRead (indirect s k.val)).toNat =
        (s.reg x).toNat / 10 ^ (2 - k.val) % 10 := by
    rw [memRead_placeBytes_bcdDigits, bcdDigits_toNat]
  have hhundreds : (s.reg x).toNat / 100 < 10 :=
    Nat.div_lt_of_lt_mul ((s.reg x).isLt.trans (by decide))
  refine ⟨s.placeBytes (indirect s 0) (bcdDigits (s.reg x)), rfl, ?_, hdigit 1, ?_,
    fun a ha => memRead_placeBytes_bcdDigits_ne s _ ha, keptBut_placeBytes s _ _⟩
  · exact (hdigit 0).trans (Nat.mod_eq_of_lt hhundreds)
  · exact (hdigit 2).trans (congrArg (· % 10) (Nat.div_one _))

/-! ## Register transfers -/

/-- Where I ends after V[0] to V[X]: X + 1 further, modulo 2^16 (R196, R197). -/
theorem toNat_add_length_regsUpTo (a : Word) (x : Reg) :
    (a + BitVec.ofNat 16 (regsUpTo x).length).toNat = (a.toNat + x.toNat + 1) % 65536 := by
  rw [regsUpTo_length, BitVec.toNat_add, BitVec.toNat_ofNat, Nat.add_mod_mod, Nat.add_assoc]

theorem storeLoop_i (rs : List Reg) (s : State) :
    (storeLoop rs s).i = s.i + BitVec.ofNat 16 rs.length := by
  rw [storeLoop_eq, State.setI_i]

/-- FX55 keeps every byte that none of V[0] to V[X] is stored at (R196). -/
theorem memRead_storeLoop_regsUpTo_ne (s : State) {x : Reg} {a : Word}
    (h : ∀ r : Reg, r.toNat ≤ x.toNat → busAddr a ≠ busAddr (indirect s r.toNat)) :
    (storeLoop (regsUpTo x) s).memRead a = s.memRead a := by
  rw [storeLoop_eq, State.memRead_setI]
  apply State.memRead_placeBytes_ne
  intro k hk
  rw [List.length_map, regsUpTo_length] at hk
  have hreg : (BitVec.ofNat 4 k).toNat = k := Nat.mod_eq_of_lt (by omega)
  have hne := h (BitVec.ofNat 4 k) (by omega)
  rwa [hreg] at hne

theorem keptBut_storeLoop (rs : List Reg) (s : State) : KeptBut [.i, .mem] s (storeLoop rs s) := by
  rw [storeLoop_eq, State.placeBytes_eq]
  intro p hp
  cases p
  case i | mem => simp at hp
  case v => exact fun _ => rfl
  all_goals rfl

/-- Settles O48: the bytes stored, the bytes and state kept, and I, one law of the loop each. -/
theorem storeRegistersFromIndex : Obligations.StoreRegistersFromIndex := by
  unfold Obligations.StoreRegistersFromIndex
  intro x s
  refine ⟨storeLoop (regsUpTo x) s, rfl, fun r hr => memRead_storeLoop_regsUpTo s hr,
    fun a ha => memRead_storeLoop_regsUpTo_ne s ha, ?_, keptBut_storeLoop (regsUpTo x) s⟩
  rw [storeLoop_i, toNat_add_length_regsUpTo]

/-- FX65 loads V[r] from I + r up to V[X] and keeps the registers above (R197). -/
theorem reg_loadLoop_regsUpTo (s : State) (x r : Reg) :
    (loadLoop (regsUpTo x) s).reg r =
      if r.toNat ≤ x.toNat then s.memRead (indirect s r.toNat) else s.reg r := by
  split
  next hle =>
    have hlen : r.toNat < (regsUpTo x).length := by
      rw [regsUpTo_length]
      exact Nat.lt_succ_of_le hle
    have hr : (regsUpTo x)[r.toNat] = r := by
      rw [regsUpTo_getElem, BitVec.ofNat_toNat, BitVec.setWidth_eq]
    have hload := loadLoop_reg (regsUpTo x) s (regsUpTo_nodup x) r.toNat hlen
    rwa [hr] at hload
  next hgt =>
    exact loadLoop_reg_ne (regsUpTo x) s r (mt (mem_regsUpTo x r).mp hgt)

theorem keptBut_loadLoop (rs : List Reg) (s : State) : KeptBut [.v, .i] s (loadLoop rs s) := by
  rw [loadLoop_eq]
  intro p hp
  cases p
  case v | i => simp at hp
  case mem => exact fun _ => rfl
  all_goals rfl

/-- Settles O49: every register, I, and what is kept, one law of the loop each. -/
theorem loadRegistersFromIndex : Obligations.LoadRegistersFromIndex := by
  unfold Obligations.LoadRegistersFromIndex
  intro x s
  refine ⟨loadLoop (regsUpTo x) s, rfl, reg_loadLoop_regsUpTo s x, ?_,
    keptBut_loadLoop (regsUpTo x) s⟩
  rw [loadLoop_i, toNat_add_length_regsUpTo]

end Sys2Proof.Machine
end

section
/-! The display instructions (spec/44_display.md R210 to R215): what 00E0 and DXYN do to each pixel, and
what VF reports. -/

namespace Sys2Proof.Machine

/-! ## The display, pixel by pixel -/

/-- A row's bit `j` is its pixel at column 63 − j (R30). -/
theorem State.getLsbD_fb (s : State) (row : Fin 32) (j : Fin 64) :
    s.fb[row].getLsbD j.val = s.pixel j.rev row := by
  have hj : 63 - (j.rev : Nat) = j.val := by
    rw [Fin.val_rev]
    omega
  rw [State.pixel, hj]

/-- The pixels are all there is to the display. -/
theorem State.fb_eq_of_pixel {s t : State}
    (h : ∀ (c : Fin 64) (row : Fin 32), t.pixel c row = s.pixel c row) : t.fb = s.fb := by
  refine Vector.ext fun k hk => BitVec.eq_of_getLsbD_eq fun j hj => ?_
  have ht := t.getLsbD_fb ⟨k, hk⟩ ⟨j, hj⟩
  have hs := s.getLsbD_fb ⟨k, hk⟩ ⟨j, hj⟩
  exact ht.trans ((h _ _).trans hs.symm)

/-- Two rows meet where some column is on in both. -/
theorem and_ne_zero_iff_exists_column (p q : Row) :
    p &&& q ≠ 0#64 ↔
      ∃ c : Fin 64, p.getLsbD (63 - c.val) = true ∧ q.getLsbD (63 - c.val) = true := by
  constructor
  · intro hne
    by_contra hnone
    refine hne (BitVec.eq_of_getLsbD_eq fun j hj => ?_)
    rw [BitVec.getLsbD_and, BitVec.getLsbD_zero, Bool.and_eq_false_iff, ← Bool.not_eq_true,
      ← Bool.not_eq_true, ← not_and_or]
    intro hboth
    have hcol : 63 - (63 - j) = j := by omega
    exact hnone ⟨⟨63 - j, by omega⟩, by rwa [hcol]⟩
  · rintro ⟨c, hp, hq⟩ hzero
    have hbit := congrArg (BitVec.getLsbD · (63 - c.val)) hzero
    simp [hp, hq] at hbit

/-! ## What an instruction of the display leaves alone -/

theorem keptBut_setFb (s : State) (fb : FrameBuffer) : KeptBut [.fb] s (s.setFb fb) := by
  intro p hp
  cases p
  case fb => exact absurd (.head _) hp
  case v | mem => exact fun _ => rfl
  all_goals rfl

theorem keptBut_setFb_setReg (s : State) (fb : FrameBuffer) (x : Reg) (b : Byte) :
    KeptBut [.v, .fb] s ((s.setFb fb).setReg x b) := by
  intro p hp
  cases p
  case v | fb => simp at hp
  case mem => exact fun _ => rfl
  all_goals rfl

/-! ## Clearing -/

theorem State.pixel_setFb_clearedFb (s : State) (c : Fin 64) (row : Fin 32) :
    (s.setFb clearedFb).pixel c row = false := by
  have hrow : clearedFb[row] = 0#64 := Vector.getElem_replicate row.isLt
  rw [State.pixel, State.setFb_fb, hrow, BitVec.getLsbD_zero]

/-- Settles O51: each pixel read from a cleared row, and the frame of a display write. -/
theorem clearTurnsEveryPixelOff : Obligations.ClearTurnsEveryPixelOff := by
  unfold Obligations.ClearTurnsEveryPixelOff
  intro s
  exact ⟨s.setFb clearedFb, rfl, s.pixel_setFb_clearedFb, keptBut_setFb s clearedFb⟩

/-! ## The sprite and the pixels it covers -/

theorem startColumn_toNat (s : State) (x : Reg) :
    (startColumn s x).toNat = (s.reg x).toNat % 64 :=
  BitVec.toNat_setWidth 6 (s.reg x)

/-- A sprite covers a pixel when its row is one of those drawn and the mask of that sprite row has the
pixel's bit (R211, R213). -/
theorem spriteCovers_iff (s : State) (x : BitVec 6) (y n : Nat) (c : Fin 64) (row : Fin 32) :
    spriteCovers s x.toNat y n c row ↔
      (y ≤ row.val ∧ row.val < y + n) ∧
        (spriteMask x (s.memRead (indirect s (row.val - y)))).getLsbD (63 - c.val) = true := by
  rw [spriteMask_bit x _ c.val c.isLt, Bool.and_eq_true, decide_eq_true_eq]
  constructor
  · rintro ⟨r, j, hr, hj, hrow, hcol, hbit⟩
    have hr' : row.val - y = r := by omega
    have hj' : c.val - x.toNat = j := by omega
    rw [hr', hj']
    exact ⟨by omega, by omega, hbit⟩
  · rintro ⟨hrow, hcol, hbit⟩
    exact ⟨row.val - y, c.val - x.toNat, by omega, by omega, by omega, by omega, hbit⟩

theorem spriteCovers_congr {s t : State} (hi : t.i = s.i) (hm : ∀ a : Word, t.memRead a = s.memRead a)
    (x y n : Nat) (c : Fin 64) (row : Fin 32) :
    spriteCovers t x y n c row ↔ spriteCovers s x y n c row := by
  simp only [spriteCovers, hi, hm]

section
variable (s : State) (x : BitVec 6) (y n : Nat) (hit : Bool) (c : Fin 64) (row : Fin 32)

/-- The loop of DXYN toggles a pixel the sprite covers: its bit is XORed with a 1 (R211). -/
theorem drawRows_bit_of_covers (h : spriteCovers s x.toNat y n c row) :
    (drawRows s x y 0 n s.fb hit).1[row].getLsbD (63 - c.val) = !s.pixel c row := by
  obtain ⟨hrow, hbit⟩ := (spriteCovers_iff s x y n c row).mp h
  have hdrawn := drawRows_row s x y 0 n s.fb hit row.val row.isLt
  rw [Nat.add_zero, if_pos hrow] at hdrawn
  rw [Fin.getElem_fin, hdrawn, BitVec.getLsbD_xor, hbit, Bool.xor_true]
  rfl

/-- The loop of DXYN keeps a pixel the sprite does not cover: its row is not drawn, or its bit is XORed
with a 0 (R211). -/
theorem drawRows_bit_of_not_covers (h : ¬ spriteCovers s x.toNat y n c row) :
    (drawRows s x y 0 n s.fb hit).1[row].getLsbD (63 - c.val) = s.pixel c row := by
  have hdrawn := drawRows_row s x y 0 n s.fb hit row.val row.isLt
  rw [Nat.add_zero] at hdrawn
  rw [Fin.getElem_fin, hdrawn]
  split
  next hrow =>
    have hbit := fun hb => h ((spriteCovers_iff s x y n c row).mpr ⟨hrow, hb⟩)
    rw [BitVec.getLsbD_xor, Bool.eq_false_iff.mpr hbit, Bool.xor_false]
    rfl
  next => rfl

/-- The loop of DXYN, begun with no collision, ends with one when a covered pixel was on (R211, R215). -/
theorem drawRows_hit_iff_exists_covered :
    (drawRows s x y 0 n s.fb false).2 = true ↔
      ∃ (c : Fin 64) (row : Fin 32), s.pixel c row = true ∧ spriteCovers s x.toNat y n c row := by
  rw [drawRows_hit, Nat.add_zero]
  constructor
  · rintro (hfalse | ⟨k, hk, hlow, hhigh, hmeet⟩)
    · cases hfalse
    · obtain ⟨c, hon, hbit⟩ := (and_ne_zero_iff_exists_column _ _).mp hmeet
      exact ⟨c, ⟨k, hk⟩, hon, (spriteCovers_iff s x y n c ⟨k, hk⟩).mpr ⟨⟨hlow, hhigh⟩, hbit⟩⟩
  · rintro ⟨c, row, hon, hcovers⟩
    obtain ⟨⟨hlow, hhigh⟩, hbit⟩ := (spriteCovers_iff s x y n c row).mp hcovers
    exact .inr ⟨row.val, row.isLt, hlow, hhigh,
      (and_ne_zero_iff_exists_column _ _).mpr ⟨c, hon, hbit⟩⟩

end

/-! ## Drawing -/

theorem flagByte_eq_one_iff (c : Bool) : flagByte c = 1#8 ↔ c = true := by
  cases c <;> decide

/-- Settles O52: the state DXYN answers holds the loop's display and its collision bit in VF, and each
clause is the law of the loop for it. -/
theorem drawTogglesCoveredPixels : Obligations.DrawTogglesCoveredPixels := by
  unfold Obligations.DrawTogglesCoveredPixels
  intro x y n s
  rw [← startColumn_toNat]
  refine ⟨_, rfl, fun c row => ⟨?toggled, ?kept⟩, ?flag, ?collision, ?registers,
    keptBut_setFb_setReg s _ vf _⟩
  case toggled => exact drawRows_bit_of_covers s _ _ _ false c row
  case kept => exact drawRows_bit_of_not_covers s _ _ _ false c row
  case flag =>
    rw [State.reg_setReg_same]
    exact flagByte_eq_zero_or_one _
  case collision =>
    rw [State.reg_setReg_same, flagByte_eq_one_iff]
    exact drawRows_hit_iff_exists_covered s _ _ _
  case registers => exact fun r hr => State.reg_setReg_ne _ _ hr

/-- Settles O53: the second draw finds the first one's coordinates, I and memory, so it covers the same
pixels and toggles each of them back. -/
theorem drawingTwiceRestoresTheDisplay : Obligations.DrawingTwiceRestoresTheDisplay := by
  unfold Obligations.DrawingTwiceRestoresTheDisplay
  intro x y n s hx hy
  obtain ⟨t, ht, hpix, hflag, hcollision, hregs, hkept⟩ := drawTogglesCoveredPixels x y n s
  obtain ⟨u, hu, hpix', -, hcollision', -, -⟩ := drawTogglesCoveredPixels x y n t
  have hi : t.i = s.i := hkept .i (by decide)
  have hmem : ∀ a : Word, t.memRead a = s.memRead a := hkept .mem (by decide)
  simp only [hregs x hx, hregs y hy, spriteCovers_congr hi hmem] at hpix' hcollision'
  refine ⟨t, u, ht, hu, State.fb_eq_of_pixel fun c row => ?_, fun hoff => ⟨?_, ?_⟩⟩
  · by_cases hcovers : spriteCovers s ((s.reg x).toNat % 64) ((s.reg y).toNat % 32) n.toNat c row
    · rw [(hpix' c row).1 hcovers, (hpix c row).1 hcovers, Bool.not_not]
    · rw [(hpix' c row).2 hcovers, (hpix c row).2 hcovers]
  · refine hflag.resolve_right fun hone => ?_
    obtain ⟨c, row, hon, hcovers⟩ := hcollision.mp hone
    exact Bool.false_ne_true ((hoff c row hcovers).symm.trans hon)
  · rintro ⟨c, row, hcovers⟩
    refine hcollision'.mpr ⟨c, row, ?_, hcovers⟩
    rw [(hpix c row).1 hcovers, hoff c row hcovers, Bool.not_false]

end Sys2Proof.Machine
end

section
/-! The timer and keypad instructions (spec/45_timers_keypad.md R232 to R238): what FX07, FX15 and FX18
move, and where EX9E and EXA1 skip. -/

namespace Sys2Proof.Machine

/-! ## The timers -/

theorem keptBut_setDt (s : State) (b : Byte) : KeptBut [.dt] s (s.setDt b) := by
  intro p hp
  cases p
  case dt => exact absurd (.head _) hp
  case v | mem => exact fun _ => rfl
  all_goals rfl

/-- Settles O54: each of the three is one update of the state, of VX, of DT or of ST. -/
theorem timerLoads : Obligations.TimerLoads := by
  unfold Obligations.TimerLoads
  intro x s
  refine ⟨?delayToReg, ?regToDelay, ?regToSound⟩
  case delayToReg => exact ⟨_, rfl, writesReg_setReg s x s.dt⟩
  case regToDelay => exact ⟨_, rfl, s.setDt_dt (s.reg x), keptBut_setDt s (s.reg x)⟩
  case regToSound => exact ⟨_, rfl, s.setSt_st (s.reg x), keptBut_setSt s (s.reg x)⟩

/-! ## The key skips -/

/-- The key an EX9E or EXA1 asks for is the bit of the latch at the low nibble of VX (R237, R238). -/
theorem keyDown_keyOperand (s : State) (x : Reg) :
    s.keyDown (keyOperand s x) = s.keys.getLsbD ((s.reg x).toNat % 16) := rfl

/-- To skip where a condition fails. -/
theorem writesPc_skipIf_not (s : State) (c : Bool) :
    WritesPc (if c then s.pc else s.pc + 2#16) s (s.skipIf !c) := by
  simpa only [Bool.not_eq_true', ← Bool.not_eq_true, ite_not] using writesPc_skipIf s (!c)

/-- Settles O55: EX9E is a skip on the key being down, EXA1 on its negation. -/
theorem keySkips : Obligations.KeySkips := by
  unfold Obligations.KeySkips
  intro x s
  rw [← keyDown_keyOperand]
  exact ⟨⟨_, rfl, writesPc_skipIf s _⟩, ⟨_, rfl, writesPc_skipIf_not s _⟩⟩

end Sys2Proof.Machine
end

section
/-! What every instruction leaves alone (spec/10_state.md R37): the frames of the state's updates put
together into the access table, with the registers and the bytes that no instruction reaches. -/

namespace Sys2Proof.Machine

/-! ## Frames put together -/

section
variable {s t u : State} {w w' : List Part}

theorem Part.Same.trans {p : Part} (h : p.Same s t) (h' : p.Same t u) : p.Same s u := by
  cases p
  case v | mem => exact fun a => (h' a).trans (h a)
  all_goals exact Eq.trans h' h

/-- A longer list of what may be written keeps less. -/
theorem KeptBut.mono (h : KeptBut w s t) (hsub : w ⊆ w') : KeptBut w' s t :=
  fun p hp => h p fun hw => hp (hsub hw)

/-- Two changes in a row write at most what one of them writes. -/
theorem KeptBut.trans (h : KeptBut w s t) (h' : KeptBut w' t u) : KeptBut (w ++ w') s u := by
  intro p hp
  obtain ⟨hw, hw'⟩ := not_or.mp fun hor => hp (List.mem_append.mpr hor)
  exact (h p hw).trans (h' p hw')

theorem WritesReg.keptBut {x : Reg} {b : Byte} (h : WritesReg x b s t) : KeptBut [.v] s t := by
  obtain ⟨-, -, hkept⟩ := h
  exact hkept

theorem WritesRegFlag.keptBut {x : Reg} {r f : Byte} (h : WritesRegFlag x r f s t) :
    KeptBut [.v] s t := by
  obtain ⟨-, -, -, hkept⟩ := h
  exact hkept

theorem WritesPc.keptBut {a : Word} (h : WritesPc a s t) : KeptBut [.pc] s t := h.2

theorem WritesI.keptBut {a : Word} (h : WritesI a s t) : KeptBut [.i] s t := h.2

theorem EntersFault.keptBut {c : FaultCode} (h : EntersFault c s t) : KeptBut [.fault] s t := h.2

end

/-! ## The updates that had no frame yet -/

theorem keptBut_setWaitKey (s : State) (k : Option Key) :
    KeptBut [.waitKey] s (s.setWaitKey k) := by
  intro p hp
  cases p
  case waitKey => exact absurd (.head _) hp
  case v | mem => exact fun _ => rfl
  all_goals rfl

theorem keptBut_setDraws (s : State) (n : Nat) : KeptBut [.draws] s (s.setDraws n) := by
  intro p hp
  cases p
  case draws => exact absurd (.head _) hp
  case v | mem => exact fun _ => rfl
  all_goals rfl

/-- The draw counts, and the masked byte goes to one register (R174, log 2). -/
theorem keptBut_setDraws_setReg (s : State) (n : Nat) (x : Reg) (b : Byte) :
    KeptBut [.v, .draws] s ((s.setDraws n).setReg x b) :=
  ((keptBut_setDraws s n).trans (writesReg_setReg _ x b).keptBut).mono (by decide)

/-- A push and a jump (R142). -/
theorem keptBut_push_setPc (s : State) (entries : List Word) (q : Nat) (a : Word) :
    KeptBut [.pc, .stack, .sp] s ((s.setStack entries q).setPc a) := by
  intro p hp
  cases p
  case pc | stack | sp => simp at hp
  case v | mem => exact fun _ => rfl
  all_goals rfl

/-- A poll that latches a key (R241). -/
theorem keptBut_setWaitKey_rewind (s : State) (k : Option Key) :
    KeptBut [.pc, .waitKey] s (s.setWaitKey k).rewind :=
  ((keptBut_setWaitKey s k).trans (writesPc_setPc _ _).keptBut).mono (by decide)

/-- A poll that holds the tone (R242). -/
theorem keptBut_setSt_rewind (s : State) (b : Byte) :
    KeptBut [.pc, .st] s (s.setSt b).rewind :=
  ((keptBut_setSt s b).trans (writesPc_setPc _ _).keptBut).mono (by decide)

/-- A poll that completes (R241). -/
theorem keptBut_setReg_setWaitKey (s : State) (x : Reg) (b : Byte) (k : Option Key) :
    KeptBut [.v, .waitKey] s ((s.setReg x b).setWaitKey k) :=
  (writesReg_setReg s x b).keptBut.trans (keptBut_setWaitKey _ k)

/-! ## The access table -/

section
variable {s t : State}

theorem execRet_keptBut (h : execRet s = .next t) : KeptBut [.pc, .sp, .fault] s t := by
  obtain ⟨-, rfl⟩ | ⟨-, rfl⟩ := execRet_cases h
  · exact (entersFault_raiseFault s _).keptBut.mono (by decide)
  · exact (keptBut_setStack_setPc s _ _).mono (by decide)

theorem execCall_keptBut {nnn : BitVec 12} (h : execCall nnn s = .next t) :
    KeptBut [.pc, .stack, .sp, .fault] s t := by
  obtain ⟨-, rfl⟩ | ⟨-, rfl⟩ := execCall_cases h
  · exact (entersFault_raiseFault s _).keptBut.mono (by decide)
  · exact (keptBut_push_setPc s _ _ _).mono (by decide)

theorem execLdVxK_keptBut {x : Reg} (h : execLdVxK x s = .next t) :
    KeptBut [.v, .pc, .st, .waitKey] s t := by
  obtain ⟨k, -, -, rfl⟩ | ⟨-, -, rfl⟩ | ⟨k, -, -, rfl⟩ | ⟨k, -, -, rfl⟩ := execLdVxK_cases h
  · exact (keptBut_setWaitKey_rewind s _).mono (by decide)
  · exact (writesPc_setPc s _).keptBut.mono (by decide)
  · exact (keptBut_setSt_rewind s _).mono (by decide)
  · exact (keptBut_setReg_setWaitKey s x _ _).mono (by decide)

/-- An instruction writes only what its row of the access table lists (R37). -/
theorem exec_keptBut {i : Instr} (h : exec i s = .next t) : KeptBut i.writes s t := by
  cases i
  case ret => exact execRet_keptBut h
  case call => exact execCall_keptBut h
  case ldVxK => exact execLdVxK_keptBut h
  all_goals cases h
  case cls => exact keptBut_setFb s _
  case drw => exact keptBut_setFb_setReg s _ vf _
  case rnd => exact keptBut_setDraws_setReg s _ _ _
  case jp | jpx => exact (writesPc_setPc s _).keptBut
  case seImm | sneImm | seReg | sneReg | skp | sknp => exact (writesPc_skipIf s _).keptBut
  case ldImm | addImm | ldReg | ldVxDt => exact (writesReg_setReg s _ _).keptBut
  case orReg | andReg | xorReg | addReg | subReg | shrReg | subnReg | shlReg =>
    exact (writesRegFlag_setRegFlag s _ _ _).keptBut
  case ldI | addI | ldF => exact (writesI_setI s _).keptBut
  case ldDtVx => exact keptBut_setDt s _
  case ldStVx => exact keptBut_setSt s _
  case ldB => exact keptBut_placeBytes s _ _
  case storeRegs => exact keptBut_storeLoop _ s
  case loadRegs => exact keptBut_loadLoop _ s

/-- A register that an instruction neither names nor flags is kept (R37, R21). -/
theorem exec_reg_of_not_names {i : Instr} {r : Reg} (h : exec i s = .next t)
    (hname : i.names r = false) (hflag : i.setsFlag = true → r ≠ vf) : t.reg r = s.reg r := by
  cases i
  case ldVxK x =>
    obtain ⟨k, -, -, rfl⟩ | ⟨-, -, rfl⟩ | ⟨k, -, -, rfl⟩ | ⟨k, -, -, rfl⟩ := execLdVxK_cases h
    · rfl
    · rfl
    · rfl
    · exact State.reg_setReg_ne s _ (ne_of_beq_false hname)
  case ldImm | addImm | ldReg | ldVxDt | rnd =>
    cases h
    exact State.reg_setReg_ne _ _ (ne_of_beq_false hname)
  case orReg | andReg | xorReg | addReg | subReg | shrReg | subnReg | shlReg =>
    cases h
    exact (State.reg_setReg_ne _ _ (hflag rfl)).trans
      (State.reg_setReg_ne s _ (ne_of_beq_false hname))
  case drw =>
    cases h
    exact State.reg_setReg_ne _ _ (hflag rfl)
  case loadRegs x =>
    cases h
    rw [reg_loadLoop_regsUpTo, if_neg (of_decide_eq_false hname)]
  all_goals exact exec_keptBut h .v (by simp [Instr.writes]) r

/-- An address none of `n` bytes stored through I lands on. -/
theorem busAddr_ne_of_notMem_range {a : Word} {n k : Nat}
    (h : busAddr a ∉ (List.range n).map fun j => busAddr (indirect s j)) (hk : k < n) :
    busAddr a ≠ busAddr (indirect s k) :=
  fun he => h (List.mem_map.mpr ⟨k, List.mem_range.mpr hk, he.symm⟩)

/-- A byte that an instruction does not store to is kept (R195, R196). -/
theorem exec_memRead_of_not_storesAt {i : Instr} {a : Word} (h : exec i s = .next t)
    (ha : busAddr a ∉ i.storesAt s) : t.memRead a = s.memRead a := by
  cases i
  case ldB x =>
    cases h
    exact memRead_placeBytes_bcdDigits_ne s _ fun k => busAddr_ne_of_notMem_range ha k.isLt
  case storeRegs x =>
    cases h
    exact memRead_storeLoop_regsUpTo_ne s fun r hr =>
      busAddr_ne_of_notMem_range ha (Nat.lt_succ_of_le hr)
  all_goals exact exec_keptBut h .mem (by simp [Instr.writes]) a

end

/-- Settles O24: every instruction answers, and the access table, its registers and its bytes are one
law each. -/
theorem everyInstructionWritesOnlyItsOwn : Obligations.EveryInstructionWritesOnlyItsOwn := by
  unfold Obligations.EveryInstructionWritesOnlyItsOwn
  intro i s
  obtain ⟨t, h⟩ := exec_next i s
  exact ⟨t, h, exec_keptBut h, fun r => exec_reg_of_not_names h,
    fun a => exec_memRead_of_not_storesAt h⟩

/-- Settles O26: of the rows of the access table only those of RET and CALL list FAULT, and both reach
it by the entry of a fault. -/
theorem faultsComeOnlyFromReturnAndCall : Obligations.FaultsComeOnlyFromReturnAndCall := by
  unfold Obligations.FaultsComeOnlyFromReturnAndCall
  intro i s t h hne
  cases i
  case ret =>
    obtain ⟨hempty, rfl⟩ | ⟨-, rfl⟩ := execRet_cases h
    · exact .inl ⟨rfl, hempty, entersFault_raiseFault s _⟩
    · exact absurd rfl hne
  case call nnn =>
    obtain ⟨hfull, rfl⟩ | ⟨-, rfl⟩ := execCall_cases h
    · exact .inr ⟨nnn, rfl, hfull, entersFault_raiseFault s _⟩
    · exact absurd rfl hne
  all_goals exact absurd (exec_keptBut h .fault (by simp [Instr.writes])) hne

theorem exec_call_full (nnn : BitVec 12) {s : State} (h : s.sp = s.params.stackDepth) :
    exec (.call nnn) s = .next (s.raiseFault .stackOverflow) := by
  rw [exec, execCall, State.push_full h]

/-- Settles O34: with no entry free CALL is the entry of the fault, and with one free it writes that
entry, SP and PC. -/
theorem callPushesOrOverflows : Obligations.CallPushesOrOverflows := by
  unfold Obligations.CallPushesOrOverflows
  intro nnn s
  refine ⟨fun hfull => ?_, fun hinv hroom => ?_⟩
  · exact ⟨_, exec_call_full nnn hfull, entersFault_raiseFault s .stackOverflow⟩
  · obtain ⟨-, hlen, -⟩ := hinv
    exact ⟨_, exec_call_room nnn hroom.ne, s.getD_set_same s.pc (hlen ▸ hroom), rfl,
      addrImm_toNat nnn, fun _ hj => s.getD_set_ne s.pc hj, keptBut_push_setPc s _ _ _⟩

/-- Settles O45: the draw, masked, goes to one register, and AND clears what the mask clears. -/
theorem randomIsMaskedByImmediate : Obligations.RandomIsMaskedByImmediate := by
  unfold Obligations.RandomIsMaskedByImmediate
  intro x nn s
  have hx : (s.draw.2.setReg x (s.draw.1 &&& nn)).reg x = Config.randIn s.draws &&& nn :=
    State.reg_setReg_same _ x _
  refine ⟨_, rfl, hx, rfl, fun k hk => ?_, fun r hr => State.reg_setReg_ne _ _ hr,
    keptBut_setDraws_setReg s _ x _⟩
  rw [hx, Fin.getElem_fin, BitVec.getElem_and, ← Fin.getElem_fin nn, hk, Bool.and_false]

end Sys2Proof.Machine
end

section
/-! The canonical form of memory (spec/20_memory.md R66, R79): instructions store bytes through the bus
alone, RESET loads an image that fits, and no other step touches memory. -/

namespace Sys2Proof.Machine

/-! ## What an instruction does to memory -/

theorem skipIf_mem (s : State) (c : Bool) : (s.skipIf c).mem = s.mem := by
  rw [State.skipIf_eq, State.setPc_mem]

theorem loadLoop_mem (rs : List Reg) (s : State) : (loadLoop rs s).mem = s.mem := by
  rw [loadLoop_eq]

theorem storeLoop_mem (rs : List Reg) (s : State) :
    (storeLoop rs s).mem = (s.placeBytes s.i (rs.map s.reg)).mem := by
  rw [storeLoop_eq, State.setI_mem]

/-- FX33 and FX55 leave memory as a run of bytes placed from some address does, and every other
instruction leaves it as it is (R37). -/
theorem exec_mem_cases {i : Instr} {s t : State} (h : exec i s = .next t) :
    t.mem = s.mem ∨ ∃ (a : Word) (bytes : List Byte), t.mem = (s.placeBytes a bytes).mem := by
  cases i
  case ldB x =>
    cases h
    exact .inr ⟨_, _, rfl⟩
  case storeRegs x =>
    cases h
    exact .inr ⟨_, _, storeLoop_mem _ s⟩
  all_goals refine .inl ?_
  case ret => obtain ⟨-, rfl⟩ | ⟨-, rfl⟩ := execRet_cases h <;> rfl
  case call => obtain ⟨-, rfl⟩ | ⟨-, rfl⟩ := execCall_cases h <;> rfl
  case ldVxK =>
    obtain ⟨k, -, -, rfl⟩ | ⟨-, -, rfl⟩ | ⟨k, -, -, rfl⟩ | ⟨k, -, -, rfl⟩ := execLdVxK_cases h <;>
      rfl
  all_goals cases h
  case seImm | sneImm | seReg | sneReg | skp | sknp => exact skipIf_mem s _
  case loadRegs => exact loadLoop_mem _ s
  all_goals rfl

/-! ## The canonical form kept -/

/-- Memory has its canonical form for the machine's own font (log 10). -/
def State.MemInv (s : State) : Prop := Memory.wf s.params.font s.mem = true

theorem exec_memInv {i : Instr} {s t : State} (hs : s.MemInv) (h : exec i s = .next t) :
    t.MemInv := by
  rw [State.MemInv, exec_params h]
  obtain hmem | ⟨a, bytes, hmem⟩ := exec_mem_cases h
  · rw [hmem]
    exact hs
  · rw [hmem]
    exact s.placeBytes_wf bytes a hs

theorem cycle_memInv {s t : State} (hs : s.MemInv) (h : cycle s = .next t) : t.MemInv := by
  obtain ⟨-, rfl⟩ | ⟨-, i, -, hexec⟩ | ⟨-, f, -, rfl⟩ := cycle_cases h
  · exact hs
  · exact exec_memInv (s := s.advance) hs hexec
  · exact hs

/-- RESET with an image that fits leaves the canonical form (R69). -/
theorem resetWith_memInv (p : Config.Params) {image : List Byte}
    (hfit : image.length ≤ Config.progMax) : (resetWith p image).MemInv :=
  storeBytes_wf image rfl (Nat.add_le_of_le_sub' (by decide) hfit)

/-- Settles O8: a cycle stores through the bus or not at all, RESET loads an image that fits into the
fresh memory, and every other move of the host leaves memory alone. -/
theorem stepKeepsMemoryCanonical : Obligations.StepKeepsMemoryCanonical := by
  unfold Obligations.StepKeepsMemoryCanonical
  intro s t hs h
  obtain ⟨-, -, rfl⟩ | ⟨-, -, rfl⟩ | ⟨-, t', b, l, hcycle, rfl⟩ | ⟨-, image, rest, -, hfit, rfl⟩ |
    ⟨-, k, rest, -, rfl⟩ | ⟨-, n, rest, -, rfl⟩ := step_cases h
  · exact hs
  · exact hs
  · exact cycle_memInv (t := t') hs hcycle
  · exact resetWith_memInv s.params (of_decide_eq_true hfit)
  · exact hs
  · exact hs

end Sys2Proof.Machine
end

section
/-! The key FX0A awaits (spec/10_state.md R29, spec/45_timers_keypad.md R240 to R243): its polls, that
while it awaits a key the machine stands at it, and that no other instruction sees the key. -/

namespace Sys2Proof.Machine

/-! ## The scan -/

/-- The scan finds the lowest key that is down (R240, D9). -/
theorem State.firstKeyDown_eq_some {s : State} {k : Key} (hdown : s.keyDown k = true)
    (hlow : ∀ j : Key, j < k → s.keyDown j = false) : s.firstKeyDown = some k := by
  have hlen : k.val < (List.finRange 16).length := by
    rw [List.length_finRange]
    exact k.isLt
  refine List.find?_eq_some_iff_getElem.mpr ⟨hdown, k.val, hlen, List.getElem_finRange _, ?_⟩
  intro j hj
  rw [List.getElem_finRange, hlow _ hj]
  rfl

/-- The scan finds none where no key is down (R240). -/
theorem State.firstKeyDown_eq_none {s : State} (hup : ∀ k : Key, s.keyDown k = false) :
    s.firstKeyDown = none :=
  List.find?_eq_none.mpr fun k _ => Bool.eq_false_iff.mp (hup k)

theorem keyByte_toNat (k : Key) : (keyByte k).toNat = k.val :=
  Nat.mod_eq_of_lt (k.isLt.trans (by decide))

/-- Settles O56: the scan decides the first two polls, the awaited key the other two, and each is two
updates of the state at most. -/
theorem keyReadPolls : Obligations.KeyReadPolls := by
  unfold Obligations.KeyReadPolls
  intro x s
  refine ⟨fun hwait hup => ?scans, fun k hwait hdown hlow => ?latches, fun k hwait hdown => ?holds,
    fun k hwait hup => ?completes⟩
  case scans =>
    exact ⟨_, execLdVxK_scan_up x hwait (State.firstKeyDown_eq_none hup), writesPc_setPc s _⟩
  case latches =>
    exact ⟨_, execLdVxK_scan_down x hwait (State.firstKeyDown_eq_some hdown hlow), rfl, rfl,
      keptBut_setWaitKey_rewind s _⟩
  case holds =>
    exact ⟨_, execLdVxK_awaited_down x hwait hdown, rfl, rfl, keptBut_setSt_rewind s _⟩
  case completes =>
    refine ⟨_, execLdVxK_awaited_up x hwait hup, ?_, rfl, fun r hr => State.reg_setReg_ne s _ hr,
      keptBut_setReg_setWaitKey s x _ _⟩
    exact (congrArg BitVec.toNat (s.reg_setReg_same x _)).trans (keyByte_toNat k)

/-! ## A cycle at an FX0A, and a run over one -/

/-- A run of the model that opens with a next state goes on from there. -/
theorem core_run_succ (n : Nat) {s t : State} (h : step s = .next t) :
    Host.Core.run core (n + 1) s = Host.Core.run core n t := by
  have hstep : core.step s = .next t := h
  exact run_succ_of_step n hstep

/-- A poll puts PC back to where the cycle began (R241). -/
theorem State.rewind_advance (s : State) : s.advance.rewind = s := by
  rw [State.rewind, State.advance_pc, BitVec.add_sub_cancel]
  rfl

/-- A cycle that scans and finds a key latches it and changes nothing else (R241). -/
theorem cycle_of_scan_down {s : State} {x : Reg} {k : Key} (hf : s.fault = none)
    (hd : decodeOp s.fetchWord = .instr (.ldVxK x)) (hwait : s.waitKey = none)
    (hfirst : s.firstKeyDown = some k) : cycle s = .next (s.setWaitKey (some k)) := by
  have hpoll : exec (.ldVxK x) s.advance = .next (s.advance.setWaitKey (some k)).rewind :=
    execLdVxK_scan_down x hwait hfirst
  rw [cycle_of_instr hf hd, hpoll]
  exact congrArg Host.Outcome.next (s.setWaitKey (some k)).rewind_advance

/-- A cycle that finds the awaited key up completes the read (R241). -/
theorem cycle_of_awaited_up {s : State} {x : Reg} {k : Key} (hf : s.fault = none)
    (hd : decodeOp s.fetchWord = .instr (.ldVxK x)) (hwait : s.waitKey = some k)
    (hup : s.keyDown k = false) :
    cycle s = .next ((s.advance.setReg x (keyByte k)).setWaitKey none) := by
  rw [cycle_of_instr hf hd]
  exact execLdVxK_awaited_up (s := s.advance) x hwait hup

/-- Settles O57: the first STEP latches the key and stays at the FX0A, SETKEYS replaces the latch alone,
and the second STEP finds the awaited key up. -/
theorem keyReadCompletesOnRelease : Obligations.KeyReadCompletesOnRelease := by
  unfold Obligations.KeyReadCompletesOnRelease
  intro s x k snapshot hf hb hp hd hwait hdown hlow hup
  have hlatch : step s =
      .next ((s.setPending [.setKeys snapshot, .step]).setWaitKey (some k)) :=
    (step_of_command hb hp).trans (cycle_of_scan_down (s := s.setPending _) hf hd hwait
      (State.firstKeyDown_eq_some (s := s.setPending _) hdown hlow))
  have hkeys : step ((s.setPending [.setKeys snapshot, .step]).setWaitKey (some k)) =
      .next (((s.setPending [.step]).setWaitKey (some k)).setKeys snapshot) :=
    step_of_command (s := (s.setPending [.setKeys snapshot, .step]).setWaitKey (some k)) hb rfl
  have hcomplete := (step_of_command
    (s := ((s.setPending [.step]).setWaitKey (some k)).setKeys snapshot) hb rfl).trans
      (cycle_of_awaited_up (s := ((s.setPending []).setWaitKey (some k)).setKeys snapshot)
        hf hd rfl hup)
  refine ⟨_, (core_run_succ 2 hlatch).trans ((core_run_succ 1 hkeys).trans
    (core_run_succ 0 hcomplete)), ?_, rfl, rfl, rfl⟩
  exact (congrArg BitVec.toNat (State.reg_setReg_same _ x _)).trans (keyByte_toNat k)

/-! ## The machine stands at the FX0A that awaits -/

theorem State.waitInv_of_none {s : State} (h : s.waitKey = none) : s.WaitInv :=
  fun hne => absurd h hne

/-- Away from an FX0A no key is awaited (R243). -/
theorem State.WaitInv.waitKey_eq_none {s : State} (hs : s.WaitInv)
    (haway : ∀ x : Reg, decodeOp s.fetchWord ≠ .instr (.ldVxK x)) : s.waitKey = none := by
  by_contra hne
  obtain ⟨x, hx⟩ := hs hne
  exact haway x hx

/-- No instruction but FX0A touches the awaited key (R243). -/
theorem exec_waitKey {i : Instr} {s t : State} (hi : ∀ x : Reg, i ≠ .ldVxK x)
    (h : exec i s = .next t) : t.waitKey = s.waitKey := by
  cases i
  case ldVxK x => exact absurd rfl (hi x)
  all_goals exact exec_keptBut h .waitKey (by simp [Instr.writes])

/-- On every branch of its poll FX0A either comes back to its own word or awaits no key (R241). -/
theorem execLdVxK_advance_waitInv {x : Reg} {s t : State}
    (hd : decodeOp s.fetchWord = .instr (.ldVxK x)) (h : execLdVxK x s.advance = .next t) :
    t.WaitInv := by
  obtain ⟨k, -, -, rfl⟩ | ⟨-, -, rfl⟩ | ⟨k, -, -, rfl⟩ | ⟨k, -, -, rfl⟩ := execLdVxK_cases h
  · have hback : (s.advance.setWaitKey (some k)).rewind = s.setWaitKey (some k) :=
      (s.setWaitKey (some k)).rewind_advance
    rw [hback]
    exact fun _ => ⟨x, hd⟩
  · rw [s.rewind_advance]
    exact fun _ => ⟨x, hd⟩
  · have hback : (s.advance.setSt Config.keywaitTone).rewind = s.setSt Config.keywaitTone :=
      (s.setSt Config.keywaitTone).rewind_advance
    rw [hback]
    exact fun _ => ⟨x, hd⟩
  · exact State.waitInv_of_none rfl

theorem cycle_waitInv {s t : State} (hs : s.WaitInv) (h : cycle s = .next t) : t.WaitInv := by
  obtain ⟨-, rfl⟩ | ⟨-, i, hd, hexec⟩ | ⟨-, f, hd, rfl⟩ := cycle_cases h
  · exact hs
  · by_cases hread : ∃ x : Reg, i = .ldVxK x
    · obtain ⟨x, rfl⟩ := hread
      exact execLdVxK_advance_waitInv hd hexec
    · have hi : ∀ x : Reg, i ≠ .ldVxK x := not_exists.mp hread
      have hnone : s.waitKey = none :=
        hs.waitKey_eq_none fun x hx => hi x (Decoded.instr.inj (hd.symm.trans hx))
      exact State.waitInv_of_none ((exec_waitKey hi hexec).trans hnone)
  · have hnone : s.waitKey = none := hs.waitKey_eq_none fun x hx => nomatch hd.symm.trans hx
    exact State.waitInv_of_none hnone

/-- RESET awaits no key (D12). -/
theorem resetWith_waitInv (p : Config.Params) (image : List Byte) : (resetWith p image).WaitInv :=
  State.waitInv_of_none rfl

/-- Settles O27: a cycle at an FX0A comes back to it or awaits no key, a cycle elsewhere awaits none
before and after, and the host's moves leave the awaited key and its word alone or reset both. -/
theorem stepKeepsAwaitedKeyAtItsRead : Obligations.StepKeepsAwaitedKeyAtItsRead := by
  unfold Obligations.StepKeepsAwaitedKeyAtItsRead
  intro s t hs h
  obtain ⟨-, -, rfl⟩ | ⟨-, -, rfl⟩ | ⟨-, t', b, l, hcycle, rfl⟩ | ⟨-, image, rest, -, -, rfl⟩ |
    ⟨-, k, rest, -, rfl⟩ | ⟨-, n, rest, -, rfl⟩ := step_cases h
  · exact hs
  · exact hs
  · exact cycle_waitInv (t := t') hs hcycle
  · exact resetWith_waitInv s.params image
  · exact hs
  · exact hs

/-! ## No other instruction sees the awaited key -/

section
variable (s : State) (w : Option Key)

theorem skipIf_setWaitKey (c : Bool) : (s.setWaitKey w).skipIf c = (s.skipIf c).setWaitKey w := by
  cases c <;> rfl

theorem placeBytes_setWaitKey (a : Word) (bytes : List Byte) :
    (s.setWaitKey w).placeBytes a bytes = (s.placeBytes a bytes).setWaitKey w := by
  induction bytes generalizing s a with
  | nil => rfl
  | cons b rest ih => exact ih (s.memWrite a b) (a + 1#16)

theorem storeLoop_setWaitKey (rs : List Reg) :
    storeLoop rs (s.setWaitKey w) = (storeLoop rs s).setWaitKey w := by
  rw [storeLoop_eq, storeLoop_eq]
  exact congrArg (State.setI · _) (placeBytes_setWaitKey s w _ _)

theorem loadLoop_setWaitKey (rs : List Reg) :
    loadLoop rs (s.setWaitKey w) = (loadLoop rs s).setWaitKey w := by
  induction rs generalizing s with
  | nil => rfl
  | cons r rest ih => exact ih ((s.setReg r (s.memRead s.i)).setI (s.i + 1#16))

variable {s} {t : State}

theorem execRet_setWaitKey (h : execRet s = .next t) :
    execRet (s.setWaitKey w) = .next (t.setWaitKey w) := by
  obtain ⟨hempty, rfl⟩ | ⟨hused, rfl⟩ := execRet_cases h
  · exact exec_ret_empty (s := s.setWaitKey w) hempty
  · exact exec_ret_used (s := s.setWaitKey w) (Nat.sub_one_add_one hused).symm

theorem execCall_setWaitKey {nnn : BitVec 12} (h : execCall nnn s = .next t) :
    execCall nnn (s.setWaitKey w) = .next (t.setWaitKey w) := by
  obtain ⟨hfull, rfl⟩ | ⟨hroom, rfl⟩ := execCall_cases h
  · exact exec_call_full nnn (s := s.setWaitKey w) hfull
  · exact exec_call_room nnn (s := s.setWaitKey w) hroom

theorem execDrw_setWaitKey {x y : Reg} {n : Nibble} (h : execDrw x y n s = .next t) :
    execDrw x y n (s.setWaitKey w) = .next (t.setWaitKey w) := by
  cases h
  unfold execDrw
  rw [drawRows_congr (s := s) (s' := s.setWaitKey w) rfl fun _ => rfl]
  rfl

end

/-- Settles O30: one law for each of the shared operations; every other instruction reads fields other
than WAIT_KEY. -/
theorem onlyKeyReadSeesAwaitedKey : Obligations.OnlyKeyReadSeesAwaitedKey := by
  unfold Obligations.OnlyKeyReadSeesAwaitedKey
  intro i s t w hi h
  cases i
  case ldVxK x => exact absurd rfl (hi x)
  case ret => exact execRet_setWaitKey w h
  case call => exact execCall_setWaitKey w h
  case drw => exact execDrw_setWaitKey w h
  all_goals cases h
  case seImm | sneImm | seReg | sneReg | skp | sknp =>
    exact congrArg Host.Outcome.next (skipIf_setWaitKey s w _)
  case ldB => exact congrArg Host.Outcome.next (placeBytes_setWaitKey s w _ _)
  case storeRegs => exact congrArg Host.Outcome.next (storeLoop_setWaitKey s w _)
  case loadRegs => exact congrArg Host.Outcome.next (loadLoop_setWaitKey s w _)
  all_goals rfl

end Sys2Proof.Machine
end

section
/-! The host's side (spec/40_cycle.md R126, R127, spec/70_reset_and_hazards.md R290): RESET, the halted
core, the unknown opcode, a placed instruction, and commands run one step at a time. -/

namespace Sys2Proof.Machine

/-! ## RESET -/

theorem State.pixel_resetWith (p : Config.Params) (image : List Byte) (c : Fin 64) (y : Fin 32) :
    (resetWith p image).pixel c y = false := by
  have hrow : (resetWith p image).fb[y] = 0#64 := Vector.getElem_replicate y.isLt
  rw [State.pixel, hrow, BitVec.getLsbD_zero]

/-- Settles O9: the registers and rows are replicated zeros, and the rest is written in the reset
table. -/
theorem resetLeavesTheTabulatedValues : Obligations.ResetLeavesTheTabulatedValues := by
  unfold Obligations.ResetLeavesTheTabulatedValues
  refine ⟨rfl, fun p image => ⟨fun r => Vector.getElem_replicate r.isLt, rfl, rfl, rfl, rfl, rfl,
    State.pixel_resetWith p image, fun k => ?_, rfl, rfl, rfl⟩⟩
  exact BitVec.getLsbD_zero

/-- Settles O11: one law of RESET for each of the three invariants. -/
theorem resetMeetsTheInvariants : Obligations.ResetMeetsTheInvariants := by
  unfold Obligations.ResetMeetsTheInvariants
  intro p image hp hfit
  exact ⟨resetWith_memInv p hfit, resetWith_waitInv p image, resetWith_stackInv image hp⟩

/-- Settles O21: the step begins the command, which asks only whether the image fits. -/
theorem resetCommandReplacesTheMachine : Obligations.ResetCommandReplacesTheMachine := by
  unfold Obligations.ResetCommandReplacesTheMachine
  intro s image rest hb hp
  rw [step_of_command hb hp]
  refine ⟨fun hfit => ?_, fun hlong => ?_⟩
  · exact if_pos (decide_eq_true hfit)
  · exact if_neg fun hfit => Nat.not_le_of_lt hlong (of_decide_eq_true hfit)

/-! ## The halted core -/

/-- The host's moves on a halted core reach the key latch and the host's own side alone (R127, log 7). -/
theorem keptBut_setKeys_setBatch_setPending (s : State) (k : BitVec 16) (b : Option Nat)
    (l : List Command) :
    KeptBut [.keys, .batch, .pending] s (((s.setKeys k).setBatch b).setPending l) := by
  intro p hp
  cases p
  case keys | batch | pending => simp at hp
  case v | mem => exact fun _ => rfl
  all_goals rfl

/-- Settles O15: of what a step can do, the tick asks for no fault, a cycle of a halted core does
nothing, and RESET is the exit; what remains moves the host's side and, by SETKEYS, the latch. -/
theorem haltedCoreIsFrozenUntilReset : Obligations.HaltedCoreIsFrozenUntilReset := by
  unfold Obligations.HaltedCoreIsFrozenUntilReset
  intro s t c hfault h
  have hf : s.fault ≠ none := Option.ne_none_iff_exists'.mpr ⟨c, hfault⟩
  obtain ⟨-, -, rfl⟩ | ⟨hnone, -, -⟩ | ⟨-, t', b, l, hcycle, rfl⟩ |
    ⟨hb, image, rest, hp, -, -⟩ | ⟨hb, k, rest, hp, rfl⟩ | ⟨-, n, rest, -, rfl⟩ := step_cases h
  · exact .inl ⟨keptBut_setKeys_setBatch_setPending s s.keys none s.pending, .inl rfl⟩
  · exact absurd hnone hf
  · cases (cycle_of_halted hf).symm.trans hcycle
    exact .inl ⟨keptBut_setKeys_setBatch_setPending s s.keys b l, .inl rfl⟩
  · exact .inr ⟨image, rest, hb, hp⟩
  · exact .inl ⟨keptBut_setKeys_setBatch_setPending s k s.batch rest,
      .inr ⟨k, rest, hb, hp, rfl⟩⟩
  · exact .inl ⟨keptBut_setKeys_setBatch_setPending s s.keys _ rest, .inl rfl⟩

/-! ## The unknown opcode -/

/-- An unknown opcode only advances PC (R124). -/
theorem cycle_of_unknown {s : State} {f : Nibble} (hf : s.fault = none)
    (hd : decodeOp s.fetchWord = .unknown f) : cycle s = .next s.advance := by
  simp only [cycle, State.halted_eq_false hf, hd, Bool.false_eq_true, if_false]

/-- The diagnostic of a step that runs a cycle on an unknown opcode (R265). -/
theorem State.stepDiag_of_unknown {s : State} {f : Nibble} (hruns : s.runsCycle = true)
    (hf : s.fault = none) (hd : decodeOp s.fetchWord = .unknown f) :
    s.stepDiag = some ⟨s.fetchWord, s.pc⟩ := by
  simp only [State.stepDiag, State.cycleDiag, hruns, State.halted_eq_false hf, hd,
    Bool.false_eq_true, if_false, if_true]

theorem keptBut_setPending (s : State) (l : List Command) :
    KeptBut [.pending] s (s.setPending l) := by
  intro p hp
  cases p
  case pending => exact absurd (.head _) hp
  case v | mem => exact fun _ => rfl
  all_goals rfl

theorem keptBut_setBatch (s : State) (b : Option Nat) : KeptBut [.batch] s (s.setBatch b) := by
  intro p hp
  cases p
  case batch => exact absurd (.head _) hp
  case v | mem => exact fun _ => rfl
  all_goals rfl

theorem keptBut_advance (s : State) : KeptBut [.pc] s s.advance := (writesPc_setPc s _).keptBut

/-- Settles O14: in each situation of the host the step is the cycle of an unknown opcode, with the
host's side moved. -/
theorem unknownOpcodeIsANoOp : Obligations.UnknownOpcodeIsANoOp := by
  unfold Obligations.UnknownOpcodeIsANoOp
  intro s f hf hd
  have hdiag (hruns : s.runsCycle = true) := State.stepDiag_of_unknown hruns hf hd
  refine ⟨fun hb hp => ?idle, fun rest hb hp => ?command, fun n hb => ?batch⟩
  case idle =>
    refine ⟨s.advance, (step_of_idle hb hp).trans (cycle_of_unknown hf hd), rfl,
      keptBut_advance s, hdiag ?_⟩
    simp only [State.runsCycle, hb, hp]
  case command =>
    refine ⟨s.advance.setPending rest, ?_, rfl, rfl,
      (keptBut_advance s).trans (keptBut_setPending s.advance rest), hdiag ?_⟩
    · rw [step_of_command hb hp]
      exact cycle_of_unknown (s := s.setPending rest) hf hd
    · simp only [State.runsCycle, hb, hp]
  case batch =>
    have hcycle : cycle (s.setBatch (some n)) = .next (s.setBatch (some n)).advance :=
      cycle_of_unknown (s := s.setBatch (some n)) hf hd
    refine ⟨s.advance.setBatch (some n), ?_, rfl, rfl,
      (keptBut_advance s).trans (keptBut_setBatch s.advance (some n)), hdiag ?_⟩
    · rw [step_of_batch hb, batchStep_succ hf hcycle]
      exact congrArg Host.Outcome.next (if_pos hf)
    · simp only [State.runsCycle, hb]

/-! ## A placed instruction -/

/-- Settles O23: the placed word is the word fetched, and it decodes to the instruction it encodes. -/
theorem placedInstructionIsRun : Obligations.PlacedInstructionIsRun := by
  unfold Obligations.PlacedInstructionIsRun
  intro s i
  have hword : BitVec.ofNat 16 ((encode i).toNat % 2 ^ 16) = encode i := by
    rw [Nat.mod_eq_of_lt (encode i).isLt, BitVec.ofNat_toNat, BitVec.setWidth_eq]
  rw [State.withFetchWord, hword]
  have hd : decodeOp (s.placeWord (encode i)).fetchWord = .instr i := by
    rw [fetchWord_placeWord, decodeOp_encode]
  exact (step_of_idle rfl rfl).trans (cycle_of_instr rfl hd)

/-! ## Commands run step by step -/

/-- A run of one step is that step. -/
theorem run_one (M : Host.Core) (s : M.State) : M.run 1 s = M.step s := by
  rw [Host.Core.run]
  cases M.step s with
  | next t => rfl
  | fault r => rfl
  | refused r => rfl

/-- A cycle runs alike inside a batch and leaves the counter (log 7). -/
theorem cycle_setBatch (b : Option Nat) {s t : State} (h : cycle s = .next t) :
    cycle (s.setBatch b) = .next (t.setBatch b) := by
  obtain ⟨-, hp⟩ := cycle_host_kept h
  have hrun : cycle (s.setBatch b) = .next ((t.setBatch b).setPending s.pending) :=
    cycle_host b s.pending h
  rwa [← hp] at hrun

theorem State.setBatch_none_of_batch {s : State} (hb : s.batch = none) : s.setBatch none = s := by
  rw [← hb]
  rfl

/-- The step that ends a batch (R126). -/
theorem step_setBatch_zero {s : State} (hf : s.fault = none) (hb : s.batch = none) :
    step (s.setBatch (some 0)) = runBatch 0 s := by
  have htick : s.timerTick.setBatch none = s.timerTick := State.setBatch_none_of_batch hb
  rw [step_of_batch rfl, runBatch_zero hf]
  exact (batchStep_zero (s := s.setBatch (some 0)) hf).trans (congrArg Host.Outcome.next htick)

/-- A step inside a batch whose cycle goes on (R126). -/
theorem step_setBatch_succ {n : Nat} {s t : State} (hf : s.fault = none) (h : cycle s = .next t)
    (hft : t.fault = none) :
    step (s.setBatch (some (n + 1))) = .next (t.setBatch (some n)) := by
  have hcycle := cycle_setBatch (some n) h
  rw [step_of_batch rfl]
  exact (batchStep_succ hf hcycle).trans (congrArg _ (if_pos hft))

/-- A step inside a batch whose cycle faults (R127). -/
theorem step_setBatch_succ_of_fault {n : Nat} {s t : State} (hf : s.fault = none)
    (hb : s.batch = none) (h : cycle s = .next t) (hft : t.fault ≠ none) :
    step (s.setBatch (some (n + 1))) = .next t := by
  have hcycle := cycle_setBatch (some n) h
  obtain ⟨hbt, -⟩ := cycle_host_kept h
  have hdrop : (t.setBatch (some n)).setBatch none = t :=
    State.setBatch_none_of_batch (hbt.trans hb)
  rw [step_of_batch rfl]
  exact (batchStep_succ hf hcycle).trans (congrArg _ ((if_neg hft).trans hdrop))

/-- The steps of a batch in progress reach the outcome of the batch as a whole, also where a fault cuts
it short (R126, R127). -/
theorem run_setBatch_eq_runBatch (n : Nat) {s : State} (hf : s.fault = none) (hb : s.batch = none) :
    ∃ k : Nat, Host.Core.run core (k + 1) (s.setBatch (some n)) = runBatch n s := by
  induction n generalizing s with
  | zero => exact ⟨0, (run_one core _).trans (step_setBatch_zero hf hb)⟩
  | succ n ih =>
    obtain ⟨t, ht⟩ := cycle_next s
    obtain ⟨hbt, -⟩ := cycle_host_kept ht
    rw [runBatch_succ n ht]
    by_cases hft : t.fault = none
    · obtain ⟨k, hk⟩ := ih hft (hbt.trans hb)
      exact ⟨k + 1, (core_run_succ _ (step_setBatch_succ hf ht hft)).trans hk⟩
    · rw [runBatch_of_halted n hft]
      exact ⟨0, (run_one core _).trans (step_setBatch_succ_of_fault hf hb ht hft)⟩

/-- Settles O16: RESET, SETKEYS and STEP are one step; BATCH on a halted core is one step that does
nothing, and else one that sets the counter and then the steps of the batch. -/
theorem stepsRefineHostCommands : Obligations.StepsRefineHostCommands := by
  unfold Obligations.StepsRefineHostCommands
  intro s c rest hb hp
  have hstep : step s = startCommand c (s.setPending rest) := step_of_command hb hp
  cases c with
  | reset image => exact ⟨0, (run_one core s).trans hstep⟩
  | setKeys k => exact ⟨0, (run_one core s).trans hstep⟩
  | step => exact ⟨0, (run_one core s).trans hstep⟩
  | batch n =>
    by_cases hf : (s.setPending rest).fault = none
    · have hopen : step s = .next ((s.setPending rest).setBatch (some n)) := by
        rw [hstep, startCommand, State.halted_eq_false hf, if_neg Bool.false_ne_true]
      obtain ⟨k, hk⟩ := run_setBatch_eq_runBatch n hf hb
      exact ⟨k + 1, (core_run_succ _ hopen).trans hk⟩
    · have hskip : step s = runBatch n (s.setPending rest) := by
        rw [hstep, startCommand, State.halted_eq_true hf, if_pos rfl, runBatch_of_halted n hf]
      exact ⟨0, (run_one core s).trans hskip⟩

end Sys2Proof.Machine
end
